-- ==== Sys2Proof/Word.lean ====
section
/-!
DEFINITION. The two value types everything is made of: the byte, and the byte sequence of a fixed length.
Bits of a byte are numbered 7 down to 0 (00_scope.md R9); a byte sequence has index 0 first, which is also first on
the wire and first in a command word (00_scope.md R10).
-/

namespace Sys2Proof

/-- One byte; bit 7 is the most significant (R9, R51). -/
abbrev Byte := BitVec 8

/-- A byte sequence of exactly `n` bytes, as the source's type `[188]` is (R53, 92_eei_decisions.md D36): a sequence of
another length cannot be built. -/
structure Bytes (n : Nat) where
  /-- the bytes, index 0 first -/
  data : List Byte
  /-- there are `n` of them -/
  size : data.length = n
deriving DecidableEq, Repr

end Sys2Proof
end

