-- ==== Sys2Proof/Config.lean ====
section
/-!
DEFINITION. The parameters the source fixes (00_scope.md R5), as constants, and the parameters the source leaves to the
implementation (00_scope.md R6), as a record whose default is the spec's own. A model takes the second kind as an
argument; since `step` has no argument beside the state, the record travels in the state and no step changes it
(notes/assumptions/1.md).
-/

namespace Sys2Proof.Config

/-- R5: bytes in a transport packet. -/
def PKT_LEN : Nat := 188
/-- R5: the first byte of a packet. -/
def SYNC : Byte := 0x47
/-- R5: the PID of a null packet. -/
def NULL_PID : BitVec 13 := 0x1FFF
/-- R5: least legal payload offset. -/
def OFF_MIN : Nat := 4
/-- R5: greatest legal payload offset. -/
def OFF_MAX : Nat := 188
/-- R5: where the body of a long-form section begins. -/
def LONG_BODY_OFF : BitVec 4 := 8
/-- R5: where the body of a short-form section begins: the source's literal, kept by name (90_conflicts.md C7). -/
def SHORT_BODY_OFF : BitVec 4 := 1
/-- R6 `CCERR_ROUTING`: who receives a continuity error (42_demultiplexer.md R149). -/
inductive CcErrRouting where
  | asSections      -- to every observer and the PID's handler, like a section
  | broadcastOnly   -- one record, to the identifier 0xFFFF
deriving DecidableEq, Repr

/-- R6: what an implementation fixes. -/
structure Params where
  /-- `SECTION_BUF_MAX`; `none` is unbounded -/
  sectionBufMax : Option Nat
  /-- `CNT_W`; a response carries 64 bits (R93), so it is at most 64 (notes/assumptions/3.md) -/
  cntW : Fin 65
  /-- `N_OBS_MAX` -/
  nObsMax : Nat
  /-- `ID_W` (notes/assumptions/2.md) -/
  idW : Nat
  /-- `CCERR_ROUTING` -/
  ccErrRouting : CcErrRouting
deriving DecidableEq, Repr

/-- R6: the defaults. -/
def Params.defaults : Params :=
  { sectionBufMax := none, cntW := 64, nObsMax := 8, idW := 16, ccErrRouting := .asSections }

/-- A free value: what an identifier register of `idW` bits takes of a 16-bit operand that does not fit it, before it is
held to `idW` bits. No rule says; the default `ID_W` never asks (notes/assumptions/2.md). -/
opaque wideIdentifier (idW : Nat) (v : BitVec 16) : BitVec 16

end Sys2Proof.Config
end

