-- ==== Sys2Proof/Syntax.lean ====
section
/-!
DEFINITION. The instructions: one constructor per row of spec/opcode_table.json. An instruction is one command of the
CMD channel (00_scope.md R4, R7). The table has three decode levels (30_encoding.md, opcode_table.json "format"):
`CMD` rows are command words; `TS` rows are the six forms of the packet an ACCEPT carries (R83); `SH` rows are the two
forms of the section header a SECHDR_PARSE carries (R91). A form constructor is that ACCEPT (that SECHDR_PARSE) with its
operand taken apart as the form's layout says.
-/

namespace Sys2Proof

/-- The header fields of a good packet that its form does not fix (30_encoding.md R82, R83): sync, the error bit, the
unit-start flag and bit 5 of byte 3 are the form's own. -/
structure TsHeader where
  /-- `transport_priority`, byte 1 bit 5; ignored (R87) -/
  prio : Bool
  /-- `pid` -/
  pid : BitVec 13
  /-- `transport_scrambling_control`, byte 3 bits 7:6; reported, ignored (R87) -/
  tsc : BitVec 2
  /-- `afc[0]`, byte 3 bit 4, payload present; reported, ignored (R88) -/
  payloadPresent : Bool
  /-- `continuity_counter`, byte 3 bits 3:0 -/
  cc : BitVec 4
deriving DecidableEq, Repr

/-- The first three bytes of a section, less the `section_syntax_indicator`, which is the form's (30_encoding.md R90,
R91). -/
structure SecHead where
  /-- byte 0 -/
  tableId : Byte
  /-- byte 1 bits 6:4, not read (R90) -/
  unread : BitVec 3
  /-- byte 1 bits 3:0 and byte 2 -/
  sectionLength : BitVec 12
deriving DecidableEq, Repr

/-- One constructor per row of spec/opcode_table.json. -/
inductive Instr where
  -- the command words, 30_encoding.md R71
  | accept (pkt : Bytes 188)
  | registerHandler (pid16 h16 : BitVec 16)
  | unregisterHandler (pid16 : BitVec 16)
  | addObserver (o16 : BitVec 16)
  | readCsr (n8 : Byte)
  | readAcc (pid16 : BitVec 16) (sel8 : Byte)
  | sechdrParse (pid16 : BitVec 16) (sec : List Byte)
  | sechdrGetTableId (pid16 : BitVec 16) (sec : List Byte)
  | sechdrGetSyntaxIndicator (pid16 : BitVec 16) (sec : List Byte)
  | sechdrGetSectionLength (pid16 : BitVec 16) (sec : List Byte)
  | sechdrGetTableIdExtension (pid16 : BitVec 16) (sec : List Byte)
  | sechdrGetVersionNumber (pid16 : BitVec 16) (sec : List Byte)
  | sechdrGetCurrentNext (pid16 : BitVec 16) (sec : List Byte)
  | sechdrGetSectionNumber (pid16 : BitVec 16) (sec : List Byte)
  | sechdrGetLastSectionNumber (pid16 : BitVec 16) (sec : List Byte)
  | sechdrGetBodyOffset (pid16 : BitVec 16) (sec : List Byte)
  | reset
  -- the packet forms, 30_encoding.md R83: an ACCEPT whose packet is of that form
  | tsTei (low7 : BitVec 7) (rest : Bytes 186)    -- byte 1 bits 6:0, and bytes 2 to 187
  | tsP (hdr : TsHeader) (body : Bytes 184)       -- `body` is bytes 4 to 187
  | tsAp (hdr : TsHeader) (body : Bytes 184)
  | tsSp (hdr : TsHeader) (body : Bytes 184)
  | tsAsp (hdr : TsHeader) (body : Bytes 184)
  | tsBadsync (pkt : Bytes 188)
  -- the section-header forms, 30_encoding.md R91: a SECHDR_PARSE whose section is of that form
  | shLong (pid16 : BitVec 16) (head : SecHead) (rest : List Byte)    -- `rest` is bytes 3 and on
  | shShort (pid16 : BitVec 16) (head : SecHead) (rest : List Byte)
deriving DecidableEq, Repr

end Sys2Proof
end

