-- ==== Sys2Proof/WellFormed.lean ====
section
/-!
DEFINITION. `wellFormed`: some command word encodes the instruction. A section is shorter than 2^32 bytes (30_encoding.md
R78, R79: `len32`), and a packet of form TS.BADSYNC has a bad sync byte (R83). An operand outside its range (R81: a PID
with one of bits 15 to 13 set, a register number above 2, ...) is no fault of the word: it is encodable, decoded and
answered `BadOperand` by the instruction's meaning.
-/

namespace Sys2Proof

/-- R78, R79: `len32` is 32 bits wide. -/
def secFits (len : Nat) : Bool := len < 2 ^ 32

/-- Some command word encodes the instruction. -/
def Instr.wellFormed : Instr → Bool
  | .accept _ => true
  | .registerHandler _ _ => true
  | .unregisterHandler _ => true
  | .addObserver _ => true
  | .readCsr _ => true
  | .readAcc _ _ => true
  | .sechdrParse _ sec => secFits sec.length
  | .sechdrGetTableId _ sec => secFits sec.length
  | .sechdrGetSyntaxIndicator _ sec => secFits sec.length
  | .sechdrGetSectionLength _ sec => secFits sec.length
  | .sechdrGetTableIdExtension _ sec => secFits sec.length
  | .sechdrGetVersionNumber _ sec => secFits sec.length
  | .sechdrGetCurrentNext _ sec => secFits sec.length
  | .sechdrGetSectionNumber _ sec => secFits sec.length
  | .sechdrGetLastSectionNumber _ sec => secFits sec.length
  | .sechdrGetBodyOffset _ sec => secFits sec.length
  | .reset => true
  | .tsTei _ _ => true
  | .tsP _ _ => true
  | .tsAp _ _ => true
  | .tsSp _ _ => true
  | .tsAsp _ _ => true
  | .tsBadsync pkt => pkt.data.head? != some Config.SYNC
  | .shLong _ _ rest => secFits (rest.length + 3)
  | .shShort _ _ rest => secFits (rest.length + 3)

end Sys2Proof
end

