-- ==== Sys2Proof/Decode.lean ====
section
/-!
DEFINITION. Decoding and encoding. The CMD channel is a sequence of bytes in which command words stand one after the
other; the length of a word is fixed by its opcode, and by `len32` for the two SECHDR opcodes (30_encoding.md R70, R71,
R95). `decode` reads the first word: an instruction, an undefined opcode (R81), a SECHDR_GET whose selector no row has
(R79, R81), or nothing yet because the word is not all there. A second level, `Instr.form`, reads the packet of an ACCEPT
(R83) and the section header of a SECHDR_PARSE (R91). The encoder is written from the same tables, in the other direction.
-/

namespace Sys2Proof

/-! ### Bytes and fields -/

/-- `b[i]`, for an index inside the sequence (00_scope.md R10, 20_memory.md R58). -/
def Bytes.get {n : Nat} (b : Bytes n) (i : Nat) (h : i < n) : Byte :=
  b.data[i]'(Nat.lt_of_lt_of_eq h b.size.symm)

/-- `b[i..j)` (R10). -/
def Bytes.slice {n : Nat} (b : Bytes n) (i j : Nat) : List Byte := (b.data.take j).drop i

/-- All bytes from index `k` on. -/
def Bytes.tail {n : Nat} (b : Bytes n) (k : Nat) : Bytes (n - k) :=
  { data := b.data.drop k, size := by rw [List.length_drop, b.size] }

/-- The first `n` bytes of `bs` and the rest, when there are that many. -/
def splitBytes (n : Nat) (bs : List Byte) : Option (Bytes n × List Byte) :=
  if h : n ≤ bs.length then
    some ({ data := bs.take n, size := by rw [List.length_take, Nat.min_eq_left h] }, bs.drop n)
  else none

/-- A two-byte field, the byte at the lower index the more significant (20_memory.md R50). -/
def be16 (hi lo : Byte) : BitVec 16 := hi ++ lo

/-- A four-byte field as a number, big-endian (R50). -/
def be32 (b3 b2 b1 b0 : Byte) : Nat := (b3 ++ b2 ++ b1 ++ b0 : BitVec 32).toNat

/-- The low `8 * n` bits of `v` as `n` bytes, big-endian (R50). -/
def beBytes : Nat → Nat → List Byte
  | 0, _ => []
  | n + 1, v => BitVec.ofNat 8 (v / 256 ^ n) :: beBytes n v

/-- R82: `tei`, byte 1 bit 7. -/
def teiOf (b1 : Byte) : Bool := b1.getLsbD 7
/-- R82, R103: `pusi`, byte 1 bit 6. -/
def pusiOf (b1 : Byte) : Bool := b1.getLsbD 6
/-- R82: `transport_priority`, byte 1 bit 5. -/
def prioOf (b1 : Byte) : Bool := b1.getLsbD 5
/-- R104: `((b1 & 0x1F) << 8) | b2`. -/
def pidOf (b1 b2 : Byte) : BitVec 13 := b1.extractLsb' 0 5 ++ b2
/-- R105: `(b3 >> 6) & 3`. -/
def tscOf (b3 : Byte) : BitVec 2 := b3.extractLsb' 6 2
/-- R105: `(b3 >> 4) & 3`. -/
def afcOf (b3 : Byte) : BitVec 2 := b3.extractLsb' 4 2
/-- R105: `b3 & 0x0F`. -/
def ccOf (b3 : Byte) : BitVec 4 := b3.extractLsb' 0 4
/-- R88: `afc[1]`, an adaptation field is present. -/
def adaptationOf (b3 : Byte) : Bool := b3.getLsbD 5
/-- R88: `afc[0]`, a payload is present. -/
def payloadOf (b3 : Byte) : Bool := b3.getLsbD 4
/-- R162: `(s1 >> 7) & 1`. -/
def ssiOf (s1 : Byte) : Bool := s1.getLsbD 7
/-- R90: byte 1 bits 6:4, not read by any rule. -/
def secUnreadOf (s1 : Byte) : BitVec 3 := s1.extractLsb' 4 3
/-- R162: `(((s1 & 0x0F) << 8) | s2) & 0xFFF`. -/
def sectionLengthOf (s1 s2 : Byte) : BitVec 12 := s1.extractLsb' 0 4 ++ s2
/-- R164: `(s5 >> 1) & 0x1F`. -/
def versionOf (s5 : Byte) : BitVec 5 := s5.extractLsb' 1 5
/-- R164: `s5 & 1`. -/
def currentNextOf (s5 : Byte) : BitVec 1 := s5.extractLsb' 0 1

/-! ### The decoder of command words -/

/-- What stands at the head of CMD. -/
inductive Decoded where
  | incomplete                            -- not one whole word
  | badCommand (rest : List Byte)         -- an undefined opcode: a word of one byte (R81)
  | badSelector (rest : List Byte)        -- a SECHDR_GET whose selector is above 8 (R79, R81)
  | instr (i : Instr) (rest : List Byte)
deriving DecidableEq, Repr

/-- R79: the row of SECHDR_GET a selector names. -/
def getterOf (sel8 : Byte) (pid16 : BitVec 16) (sec : List Byte) : Option Instr :=
  match sel8.toNat with
  | 0 => some (.sechdrGetTableId pid16 sec)
  | 1 => some (.sechdrGetSyntaxIndicator pid16 sec)
  | 2 => some (.sechdrGetSectionLength pid16 sec)
  | 3 => some (.sechdrGetTableIdExtension pid16 sec)
  | 4 => some (.sechdrGetVersionNumber pid16 sec)
  | 5 => some (.sechdrGetCurrentNext pid16 sec)
  | 6 => some (.sechdrGetSectionNumber pid16 sec)
  | 7 => some (.sechdrGetLastSectionNumber pid16 sec)
  | 8 => some (.sechdrGetBodyOffset pid16 sec)
  | _ => none

/-- R72: the 188 bytes of the packet. -/
def decodeAccept (bs : List Byte) : Decoded :=
  match splitBytes 188 bs with
  | some (pkt, rest) => .instr (.accept pkt) rest
  | none => .incomplete

/-- R73: `pid_hi pid_lo h_hi h_lo`. -/
def decodeRegister : List Byte → Decoded
  | p1 :: p0 :: h1 :: h0 :: rest => .instr (.registerHandler (be16 p1 p0) (be16 h1 h0)) rest
  | _ => .incomplete

/-- R74: `pid_hi pid_lo`. -/
def decodeUnregister : List Byte → Decoded
  | p1 :: p0 :: rest => .instr (.unregisterHandler (be16 p1 p0)) rest
  | _ => .incomplete

/-- R75: `o_hi o_lo`. -/
def decodeAddObserver : List Byte → Decoded
  | o1 :: o0 :: rest => .instr (.addObserver (be16 o1 o0)) rest
  | _ => .incomplete

/-- R76: `n`. -/
def decodeReadCsr : List Byte → Decoded
  | n :: rest => .instr (.readCsr n) rest
  | _ => .incomplete

/-- R77: `pid_hi pid_lo sel`. -/
def decodeReadAcc : List Byte → Decoded
  | p1 :: p0 :: sel :: rest => .instr (.readAcc (be16 p1 p0) sel) rest
  | _ => .incomplete

/-- R78: `pid_hi pid_lo len3 len2 len1 len0`, then `len32` section bytes. -/
def decodeParse : List Byte → Decoded
  | p1 :: p0 :: l3 :: l2 :: l1 :: l0 :: t =>
    if be32 l3 l2 l1 l0 ≤ t.length then
      .instr (.sechdrParse (be16 p1 p0) (t.take (be32 l3 l2 l1 l0))) (t.drop (be32 l3 l2 l1 l0))
    else .incomplete
  | _ => .incomplete

/-- R79: `sel pid_hi pid_lo len3 len2 len1 len0`, then `len32` section bytes. -/
def decodeGet : List Byte → Decoded
  | sel :: p1 :: p0 :: l3 :: l2 :: l1 :: l0 :: t =>
    if be32 l3 l2 l1 l0 ≤ t.length then
      match getterOf sel (be16 p1 p0) (t.take (be32 l3 l2 l1 l0)) with
      | some i => .instr i (t.drop (be32 l3 l2 l1 l0))
      | none => .badSelector (t.drop (be32 l3 l2 l1 l0))
    else .incomplete
  | _ => .incomplete

/-- R71: the opcode map. -/
def decodeWith (op : Byte) (operands : List Byte) : Decoded :=
  match op.toNat with
  | 0x01 => decodeAccept operands
  | 0x02 => decodeRegister operands
  | 0x03 => decodeUnregister operands
  | 0x04 => decodeAddObserver operands
  | 0x05 => decodeReadCsr operands
  | 0x06 => decodeReadAcc operands
  | 0x10 => decodeParse operands
  | 0x11 => decodeGet operands
  | 0xFF => .instr .reset operands
  | _ => .badCommand operands

/-- The first word of CMD. -/
def decode : List Byte → Decoded
  | [] => .incomplete
  | op :: operands => decodeWith op operands

/-! ### The second level: the packet of an ACCEPT, the section of a SECHDR_PARSE -/

/-- The header fields a form does not fix (R82). -/
def headerOf (b1 b2 b3 : Byte) : TsHeader :=
  { prio := prioOf b1, pid := pidOf b1 b2, tsc := tscOf b3, payloadPresent := payloadOf b3, cc := ccOf b3 }

/-- R83: the packet's form, with its operands. -/
def packetForm (p : Bytes 188) : Instr :=
  let b1 := p.get 1 (by decide)
  let b3 := p.get 3 (by decide)
  let hdr := headerOf b1 (p.get 2 (by decide)) b3
  if p.get 0 (by decide) != Config.SYNC then .tsBadsync p
  else if teiOf b1 then .tsTei (b1.extractLsb' 0 7) (p.tail 2)
  else match pusiOf b1, adaptationOf b3 with
    | false, false => .tsP hdr (p.tail 4)
    | false, true => .tsAp hdr (p.tail 4)
    | true, false => .tsSp hdr (p.tail 4)
    | true, true => .tsAsp hdr (p.tail 4)

/-- R91: the section header's form; a section of fewer than three bytes has none (R161). -/
def sectionForm (pid16 : BitVec 16) : List Byte → Instr
  | s0 :: s1 :: s2 :: rest =>
    let head : SecHead := { tableId := s0, unread := secUnreadOf s1, sectionLength := sectionLengthOf s1 s2 }
    if ssiOf s1 then .shLong pid16 head rest else .shShort pid16 head rest
  | sec => .sechdrParse pid16 sec

/-- The form row of an ACCEPT and of a SECHDR_PARSE; every other instruction is its own row. -/
def Instr.form : Instr → Instr
  | .accept pkt => packetForm pkt
  | .sechdrParse pid16 sec => sectionForm pid16 sec
  | i => i

/-- The first word of CMD, read down to its form row. -/
def decodeForm (bs : List Byte) : Decoded :=
  match decode bs with
  | .instr i rest => .instr i.form rest
  | d => d

/-! ### The encoder -/

/-- Byte 1 of a packet (R82). -/
def tsByte1 (tei pusi prio : Bool) (pid : BitVec 13) : Byte :=
  BitVec.ofBool tei ++ BitVec.ofBool pusi ++ BitVec.ofBool prio ++ pid.extractLsb' 8 5

/-- Byte 3 of a packet (R82). -/
def tsByte3 (tsc : BitVec 2) (adaptation payload : Bool) (cc : BitVec 4) : Byte :=
  tsc ++ BitVec.ofBool adaptation ++ BitVec.ofBool payload ++ cc

/-- The packet of a form with good sync and clear error bit (R83). -/
def packetOf (pusi adaptation : Bool) (h : TsHeader) (body : Bytes 184) : Bytes 188 :=
  { data := Config.SYNC :: tsByte1 false pusi h.prio h.pid :: h.pid.extractLsb' 0 8
      :: tsByte3 h.tsc adaptation h.payloadPresent h.cc :: body.data
    size := by simp only [List.length_cons, body.size] }

/-- The packet of form TS.TEI (R83). -/
def packetOfTei (low7 : BitVec 7) (rest : Bytes 186) : Bytes 188 :=
  { data := Config.SYNC :: (BitVec.ofBool true ++ low7) :: rest.data
    size := by simp only [List.length_cons, rest.size] }

/-- The section whose first three bytes are a header head of the form `ssi` (R90). -/
def sectionOf (ssi : Bool) (h : SecHead) (rest : List Byte) : List Byte :=
  h.tableId :: (BitVec.ofBool ssi ++ h.unread ++ h.sectionLength.extractLsb' 8 4)
    :: h.sectionLength.extractLsb' 0 8 :: rest

/-- The command that carries a form; a command is its own. -/
def Instr.command : Instr → Instr
  | .tsTei low7 rest => .accept (packetOfTei low7 rest)
  | .tsP h body => .accept (packetOf false false h body)
  | .tsAp h body => .accept (packetOf false true h body)
  | .tsSp h body => .accept (packetOf true false h body)
  | .tsAsp h body => .accept (packetOf true true h body)
  | .tsBadsync pkt => .accept pkt
  | .shLong pid16 h rest => .sechdrParse pid16 (sectionOf true h rest)
  | .shShort pid16 h rest => .sechdrParse pid16 (sectionOf false h rest)
  | i => i

/-- The instruction is a row of the CMD level. -/
def Instr.isCommand (i : Instr) : Bool := i.command == i

/-- A 16-bit operand, big-endian (R70). -/
def word16 (v : BitVec 16) : List Byte := [v.extractLsb' 8 8, v.extractLsb' 0 8]

/-- R78, R79: `pid16`, `len32`, the section bytes. -/
def secOperands (pid16 : BitVec 16) (sec : List Byte) : List Byte :=
  word16 pid16 ++ (beBytes 4 sec.length ++ sec)

/-- The command word of an instruction (R71 to R80), of a form the word of the command that carries it. -/
def encode : Instr → List Byte
  | .accept pkt => 0x01 :: pkt.data
  | .registerHandler pid16 h16 => 0x02 :: (word16 pid16 ++ word16 h16)
  | .unregisterHandler pid16 => 0x03 :: word16 pid16
  | .addObserver o16 => 0x04 :: word16 o16
  | .readCsr n8 => [0x05, n8]
  | .readAcc pid16 sel8 => 0x06 :: (word16 pid16 ++ [sel8])
  | .sechdrParse pid16 sec => 0x10 :: secOperands pid16 sec
  | .sechdrGetTableId pid16 sec => 0x11 :: 0 :: secOperands pid16 sec
  | .sechdrGetSyntaxIndicator pid16 sec => 0x11 :: 1 :: secOperands pid16 sec
  | .sechdrGetSectionLength pid16 sec => 0x11 :: 2 :: secOperands pid16 sec
  | .sechdrGetTableIdExtension pid16 sec => 0x11 :: 3 :: secOperands pid16 sec
  | .sechdrGetVersionNumber pid16 sec => 0x11 :: 4 :: secOperands pid16 sec
  | .sechdrGetCurrentNext pid16 sec => 0x11 :: 5 :: secOperands pid16 sec
  | .sechdrGetSectionNumber pid16 sec => 0x11 :: 6 :: secOperands pid16 sec
  | .sechdrGetLastSectionNumber pid16 sec => 0x11 :: 7 :: secOperands pid16 sec
  | .sechdrGetBodyOffset pid16 sec => 0x11 :: 8 :: secOperands pid16 sec
  | .reset => [0xFF]
  | .tsTei low7 rest => 0x01 :: (packetOfTei low7 rest).data
  | .tsP h body => 0x01 :: (packetOf false false h body).data
  | .tsAp h body => 0x01 :: (packetOf false true h body).data
  | .tsSp h body => 0x01 :: (packetOf true false h body).data
  | .tsAsp h body => 0x01 :: (packetOf true true h body).data
  | .tsBadsync pkt => 0x01 :: pkt.data
  | .shLong pid16 h rest => 0x10 :: secOperands pid16 (sectionOf true h rest)
  | .shShort pid16 h rest => 0x10 :: secOperands pid16 (sectionOf false h rest)

/-- R71, R95: how long the word at the head of CMD is, told from its opcode and, for the SECHDR opcodes, its `len32`;
`none` where too little of it is there to tell. An undefined opcode is a word of one byte (R81). -/
def wordLength : List Byte → Option Nat
  | [] => none
  | op :: t =>
    match op.toNat with
    | 0x01 => some 189
    | 0x02 => some 5
    | 0x03 => some 3
    | 0x04 => some 3
    | 0x05 => some 2
    | 0x06 => some 4
    | 0x10 => match t with
      | _ :: _ :: l3 :: l2 :: l1 :: l0 :: _ => some (7 + be32 l3 l2 l1 l0)
      | _ => none
    | 0x11 => match t with
      | _ :: _ :: _ :: l3 :: l2 :: l1 :: l0 :: _ => some (8 + be32 l3 l2 l1 l0)
      | _ => none
    | _ => some 1

/-! ### The rows of the opcode table -/

/-- `n` bytes of 0. -/
def zeroBytes (n : Nat) : List Byte := List.replicate n 0

/-- The command word in which the table's word `w` stands, every byte the row gives no bits being 0. The table writes a
row of `nbits` bits as one big-endian number (opcode_table.json: `byte0<<8 | byte1` for 16 bits, `s[0]<<16 | s[1]<<8 | s[2]`
for the 24 bits of an SH row, `b[0]<<24 | ...` for the 32 bits of a TS row). A TS word stands at the head of the packet of an
ACCEPT, an SH word at the head of the section of a SECHDR_PARSE with an eight-byte section; any other word is the head of
the command word itself (notes/assumptions/4.md). -/
def tableWordBytes (nbits w : Nat) : List Byte :=
  let head := beBytes (nbits / 8) w
  match nbits with
  | 32 => 0x01 :: (head ++ zeroBytes 184)
  | 24 => 0x10 :: 0 :: 0 :: (beBytes 4 8 ++ (head ++ zeroBytes 5))
  | _ => (head ++ zeroBytes (189 - nbits / 8)).take ((wordLength (head ++ zeroBytes 189)).getD 1)

/-- The row an opcode-table word decodes to: a TS or SH word down to its form, any other as a command. -/
def decodeTableWord (nbits w : Nat) : Option Instr :=
  match (if nbits = 24 ∨ nbits = 32 then decodeForm else decode) (tableWordBytes nbits w) with
  | .instr i _ => some i
  | _ => none

/-! ### The pseudo-instruction PKT -/

/-- The named parts of `PKT` (30_encoding.md R97), with its defaults. -/
structure PktParts where
  pid : BitVec 13
  cc : BitVec 4
  pusi : Bool := false
  afLen : Option Byte := none
  afc : Option (BitVec 2) := none
  ptr : Option Byte := none
  tail : List Byte := []
  payload : List Byte := []
  tei : Bool := false
  prio : Bool := false
  tsc : BitVec 2 := 0
  sync : Byte := Config.SYNC
  fill : Byte := 0xFF
deriving DecidableEq, Repr

/-- R97 step 5: the field contents, the first byte 0x00 and the rest 0xFF. -/
def fieldContents : Nat → List Byte
  | 0 => []
  | n + 1 => 0x00 :: List.replicate n 0xFF

/-- R97 steps 1 to 8: the parts in order. -/
def pktParts (a : PktParts) : List Byte :=
  let afc : BitVec 2 := a.afc.getD (if a.afLen.isSome then 3 else 1)
  let field : List Byte := match a.afLen with
    | some l => l :: fieldContents (min l.toNat 183)
    | none => []
  let room : Bool := 4 + field.length < 188
  let pointer : List Byte :=
    if a.pusi && room then [a.ptr.getD (BitVec.ofNat 8 a.tail.length)] else []
  a.sync :: tsByte1 a.tei a.pusi a.prio a.pid :: a.pid.extractLsb' 0 8 :: (a.tsc ++ afc ++ a.cc)
    :: (field ++ (pointer ++ (a.tail ++ a.payload)))

/-- R97: the packet, filled up to 188 bytes; `none` when the parts do not fit. -/
def pkt (a : PktParts) : Option (Bytes 188) :=
  if (pktParts a).length ≤ 188 then
    (splitBytes 188 (pktParts a ++ List.replicate (188 - (pktParts a).length) a.fill)).map Prod.fst
  else none

end Sys2Proof
end

