-- ==== Sys2Proof/Machine/State.lean ====
section
/-!
DEFINITION. The state, as plain data: everything spec/10_state.md gives the block (R20), the implementation parameters
(00_scope.md R6), and the four channels of 00_scope.md R7, which are the model's own fields: what the environment has sent
and the block has not yet taken (CMD, and the failure reports EVT may carry back), and what the block has put out (RSP,
EVT, LOG), oldest first. The block never reads an output back (R39).

The PID-indexed files `acc`, `seen` and the handler table are lists of (PID, entry) pairs in one canonical form: PIDs
strictly rising, no entry equal to what an unlisted PID reads as, which is that entry's reset value
(Sys2Proof/Machine/Memory.lean, notes/assumptions/5.md).
-/

namespace Sys2Proof.Machine

open Sys2Proof.Config

/-- R23, R24: the accumulator's state. The running continuity counter `prev_cc` is present in `Accumulating` only, so it is
a field of that constructor (93_implementation_defined.md U11). -/
inductive AccState where
  | awaitingStart
  | accumulating (prevCc : BitVec 4)
deriving DecidableEq, Repr

/-- R23 to R27: one entry of the accumulator file. -/
structure Accum where
  /-- `acc[p].state` and `acc[p].prev_cc` -/
  state : AccState
  /-- `acc[p].buf`, the section buffer -/
  buf : List Byte
  /-- `acc[p].pkts`, `CNT_W` bits -/
  pkts : Nat
  /-- `acc[p].bytes`, `CNT_W` bits -/
  bytes : Nat
deriving DecidableEq, Repr

/-- R30: one slot of the handler table; `hid`, `ID_W` bits, means something only where `hvalid` is set. An identifier comes
from a 16-bit operand and leaves in a 16-bit `dest_id`, so 16 bits hold it for every `ID_W` (notes/assumptions/2.md). -/
structure HandlerSlot where
  hvalid : Bool
  hid : BitVec 16
deriving DecidableEq, Repr

/-- R221: the status codes of a response. -/
inductive Status where
  | ok
  | badSync
  | transportError
  | offsetOutOfRange
  | invalidState
  | sectionTruncated
  | badCommand
  | badOperand
  | observerTableFull
  | fatal
deriving DecidableEq, Repr

/-- R93: a response on RSP: the status and the data bytes that follow it. -/
structure Response where
  status : Status
  data : List Byte
deriving DecidableEq, Repr

/-- R92: who a delivery record is for. -/
inductive DestClass where
  | globalObserver
  | pidHandler
deriving DecidableEq, Repr

/-- R92: the kind and the body of a delivery record. -/
inductive Event where
  | sectionComplete (bytes : List Byte)
  | continuityError (prevCc expectedCc actualCc : BitVec 4)
deriving DecidableEq, Repr

/-- R92: a delivery record on EVT; `kind` and `body` are the event's. -/
structure EvtRecord where
  destClass : DestClass
  destId : BitVec 16
  pid : BitVec 13
  event : Event
deriving DecidableEq, Repr

/-- R238 (d): what EVT may carry back from a destination: that it failed while consuming a record. -/
structure FailureReport where
  destClass : DestClass
  destId : BitVec 16
  pid : BitVec 13
deriving DecidableEq, Repr

/-- R94: a LOG entry. -/
structure LogEntry where
  kind : Byte
  destClass : DestClass
  destId : BitVec 16
  pid : BitVec 13
deriving DecidableEq, Repr

/-- Reasons to stop with a fault. There are none: the block answers every command word (60_exceptions.md R221), also in
the fatal state (R228), every index a rule uses is guarded (20_memory.md R58), and EVT never refuses a record
(42_demultiplexer.md R154). -/
inductive Fault where
deriving DecidableEq, Repr

/-- Reasons to answer that an instruction has no meaning. -/
inductive Refusal where
  /-- Raised by an arm of `exec` whose instruction has no meaning in the model; safe, since nothing is claimed of it. No
  arm raises it. -/
  | notModelled (mnemonic : String)
deriving DecidableEq, Repr

/-- The whole machine. -/
structure State where
  /-- R6: the implementation parameters; no step changes them -/
  params : Params
  /-- R22 to R27: the accumulator file, by PID -/
  acc : List (Nat × Accum)
  /-- R28: `seen`, by PID -/
  seen : List (Nat × Bool)
  /-- R30: the handler table, by PID -/
  handlers : List (Nat × HandlerSlot)
  /-- R31: `obs[0 .. n_obs)`, `ID_W` bits each; `n_obs` is its length -/
  obs : List (BitVec 16)
  /-- R33: `TOTAL_PACKETS`, `CNT_W` bits -/
  totalPackets : Nat
  /-- R34: `TOTAL_CC_ERRORS`, `CNT_W` bits -/
  totalCcErrors : Nat
  /-- R35: `STATUS` -/
  status : BitVec 8
  /-- R7: CMD, the bytes sent and not yet taken -/
  cmd : List Byte
  /-- R238 (d): failure reports sent back along EVT and not yet taken -/
  evtFailures : List FailureReport
  /-- R7: RSP, the responses given -/
  rsp : List Response
  /-- R7: EVT, the delivery records emitted -/
  evt : List EvtRecord
  /-- R7: LOG, the entries written -/
  log : List LogEntry
deriving DecidableEq, Repr

/-- R41: an accumulator after reset, `AwaitingStart` with an empty buffer. -/
def Accum.idle : Accum := { state := .awaitingStart, buf := [], pkts := 0, bytes := 0 }

/-- R41: a handler slot after reset: empty. The identifier left in it is the model's (notes/assumptions/6.md). -/
def HandlerSlot.empty : HandlerSlot := { hvalid := false, hid := 0 }

/-- R41, R251: the state after reset, with the default parameters (R6); the channels are empty, no environment having sent
anything yet. -/
def State.reset : State :=
  { params := Params.defaults
    acc := []
    seen := []
    handlers := []
    obs := []
    totalPackets := 0
    totalCcErrors := 0
    status := 0x00
    cmd := []
    evtFailures := []
    rsp := []
    evt := []
    log := [] }

end Sys2Proof.Machine
end

