-- ==== Sys2Proof/Machine/Memory.lean ====
section
/-!
DEFINITION. The PID-indexed files as sparse lists in canonical form (spec/20_memory.md R58: the index space PID). A list
holds (index, entry) pairs, indices strictly rising, and never an entry equal to the one an unlisted index reads as; so
equal files are equal lists.
-/

namespace Sys2Proof.Machine

/-- The entry at index `k`; an unlisted index reads as `d`. -/
def Memory.read {α : Type} (d : α) : List (Nat × α) → Nat → α
  | [], _ => d
  | (k', v) :: m, k => if k' = k then v else Memory.read d m k

/-- Without the entries at index `k`. -/
def Memory.erase {α : Type} : List (Nat × α) → Nat → List (Nat × α)
  | [], _ => []
  | (k', v) :: m, k => if k' = k then Memory.erase m k else (k', v) :: Memory.erase m k

/-- With the entry `v` at index `k`, before the first higher index. -/
def Memory.insert {α : Type} : List (Nat × α) → Nat → α → List (Nat × α)
  | [], k, v => [(k, v)]
  | (k', v') :: m, k, v => if k' < k then (k', v') :: Memory.insert m k v else (k, v) :: (k', v') :: m

/-- The file with entry `v` at index `k`, in canonical form: writing what an unlisted index reads as removes the entry. -/
def Memory.write {α : Type} [DecidableEq α] (d : α) (m : List (Nat × α)) (k : Nat) (v : α) : List (Nat × α) :=
  if v = d then Memory.erase m k else Memory.insert (Memory.erase m k) k v

/-- The canonical form: indices strictly rising, no entry equal to what an unlisted index reads as. -/
abbrev Memory.wf {α : Type} (d : α) (m : List (Nat × α)) : Prop :=
  m.Pairwise (fun x y => x.1 < y.1) ∧ ∀ x ∈ m, x.2 ≠ d

/-- `acc[p]` (R22). -/
def State.accum (s : State) (p : Nat) : Accum := Memory.read Accum.idle s.acc p

/-- `acc[p] <- a`. -/
def State.setAccum (s : State) (p : Nat) (a : Accum) : State :=
  { s with acc := Memory.write Accum.idle s.acc p a }

/-- `seen[p]` (R28). -/
def State.seenBit (s : State) (p : Nat) : Bool := Memory.read false s.seen p

/-- `seen[p] <- 1` (R144). -/
def State.setSeen (s : State) (p : Nat) : State := { s with seen := Memory.write false s.seen p true }

/-- `hvalid[p]` and `hid[p]` (R30). -/
def State.slot (s : State) (p : Nat) : HandlerSlot := Memory.read HandlerSlot.empty s.handlers p

/-- Write of a handler slot. -/
def State.setSlot (s : State) (p : Nat) (h : HandlerSlot) : State :=
  { s with handlers := Memory.write HandlerSlot.empty s.handlers p h }

/-- `MemRead(BUF[p], i, 1)`, one byte of a section buffer (00_scope.md R12, R58); `none` past the buffer's end. -/
def State.bufByte (s : State) (p i : Nat) : Option Byte := (s.accum p).buf[i]?

end Sys2Proof.Machine
end

