-- ==== Sys2Proof/Machine/Flags.lean ====
section
/-!
DEFINITION. The STATUS register (spec/10_state.md R35, R36): bit 0 `FATAL`, bits 2:1 `CAUSE`, bits 7:3 reserved. It is the
block's only status flag; there are no condition codes.
-/

namespace Sys2Proof.Machine

/-- R35: what set `FATAL`. -/
inductive FatalCause where
  | invariantViolation
  | bufferOverflow
deriving DecidableEq, Repr

/-- R35: the value of `CAUSE`. -/
def FatalCause.code : FatalCause → BitVec 2
  | .invariantViolation => 1
  | .bufferOverflow => 2

/-- `STATUS.FATAL`. -/
def State.fatal (s : State) : Bool := s.status.getLsbD 0

/-- `STATUS.CAUSE`. -/
def State.cause (s : State) : BitVec 2 := s.status.extractLsb' 1 2

/-- `STATUS` with `FATAL` set and `CAUSE` the cause; the reserved bits are not written (R35). -/
def statusWith (status : BitVec 8) (c : FatalCause) : BitVec 8 := status.extractLsb' 3 5 ++ c.code ++ 1#1

/-- What a read of `STATUS` gives: the reserved bits read as 0 (R35). -/
def statusRead (status : BitVec 8) : BitVec 8 := 0#5 ++ status.extractLsb' 0 3

/-- R228: `Fatal(cause)`, the register's part: if `FATAL` is 0 it is set and `CAUSE` written; the first cause is kept. -/
def State.setFatal (s : State) (c : FatalCause) : State :=
  if s.fatal then s else { s with status := statusWith s.status c }

end Sys2Proof.Machine
end

