-- ==== Sys2Proof/Machine/Operands.lean ====
section
/-!
DEFINITION. The operand forms: the `pid16` operand of the commands (spec/30_encoding.md R73), the identifier
operands (R73, R75), the payload offset of a packet (R86, 40_packet_framer.md R106), and the framer's result record (R111).
-/

namespace Sys2Proof.Machine

open Sys2Proof Sys2Proof.Config

/-- R73, R81: one of bits 15 to 13 of `pid16` is set. -/
def pidBad (pid16 : BitVec 16) : Bool := pid16.extractLsb' 13 3 != 0

/-- R30, R31: an identifier operand as a register of `ID_W` bits holds it: the operand where it fits, else a free value of
`ID_W` bits (notes/assumptions/2.md). -/
def identifier (p : Params) (v : BitVec 16) : BitVec 16 :=
  if v.toNat < 2 ^ p.idW then v else BitVec.ofNat 16 ((wideIdentifier p.idW v).toNat % 2 ^ p.idW)

/-- R111: what the framer returns of an accepted packet. -/
structure Framed where
  pid : BitVec 13
  pusi : Bool
  cc : BitVec 4
  afc : BitVec 2
  tsc : BitVec 2
  main : List Byte
  trailing : Option (List Byte)
deriving DecidableEq, Repr

/-- R106: 4, or `4 + 1 + b[4]` when an adaptation field is present; a natural-number sum. -/
def payloadOffset (adaptation : Bool) (b4 : Byte) : Nat :=
  if adaptation then 4 + 1 + b4.toNat else 4

/-- R110: the tail is absent when the pointer is 0. -/
def tailOf (ptr : Nat) (bytes : List Byte) : Option (List Byte) :=
  if ptr != 0 then some bytes else none

/-- `trailing` if present, else the empty sequence (41_section_accumulator.md R120). -/
def Framed.tail (f : Framed) : List Byte := f.trailing.getD []

end Sys2Proof.Machine
end

