-- ==== Sys2Proof/Machine/Ops.lean ====
section
/-!
DEFINITION. The named operations over the state: the counters, the channels, taking an exception, dispatch.

TAKING AN EXCEPTION in this block is the emission of a non-OK response (60_exceptions.md R227): `State.raise`. It saves
nothing, transfers control nowhere and changes no register. RETURNING from one is the environment sending its next
command: the next `step` takes it from CMD; there is no operation for it. The one status with a lasting effect is `Fatal`
when a command sets it: `State.setFatal` (Sys2Proof/Machine/Flags.lean), then `State.raise`.
-/

namespace Sys2Proof.Machine

open Sys2Proof Sys2Proof.Config

/-- R221: the codes. -/
def Status.code : Status → Byte
  | .ok => 0x00
  | .badSync => 0x01
  | .transportError => 0x02
  | .offsetOutOfRange => 0x03
  | .invalidState => 0x10
  | .sectionTruncated => 0x11
  | .badCommand => 0x20
  | .badOperand => 0x21
  | .observerTableFull => 0x30
  | .fatal => 0xF0

/-- R93: the bytes of a response. -/
def Response.pack (r : Response) : List Byte := r.status.code :: r.data

/-- R92: the code of `dest_class`. -/
def DestClass.code : DestClass → Byte
  | .globalObserver => 0x00
  | .pidHandler => 0x01

/-- R92: the code of `kind`. -/
def Event.kind : Event → Byte
  | .sectionComplete _ => 0x01
  | .continuityError _ _ _ => 0x02

/-- R92: the bytes of the body. The packing of `len` is defined for sections below 2^32 bytes. -/
def Event.body : Event → List Byte
  | .sectionComplete bytes => beBytes 4 bytes.length ++ bytes
  | .continuityError p e a => [p.setWidth 8, e.setWidth 8, a.setWidth 8]

/-- R92: the bytes of a delivery record. -/
def EvtRecord.pack (r : EvtRecord) : List Byte :=
  r.event.kind :: r.destClass.code :: (word16 r.destId ++ (word16 (r.pid.setWidth 16) ++ r.event.body))

/-- A value of a `CNT_W`-bit counter (R26, R27, R33, R34). -/
def wrap (p : Params) (n : Nat) : Nat := n % 2 ^ p.cntW.val

/-- R133: the length passes `SECTION_BUF_MAX`. -/
def overflows (p : Params) (len : Nat) : Bool :=
  match p.sectionBufMax with
  | none => false
  | some m => m < len

/-- R7: one response on RSP. -/
def State.respond (s : State) (st : Status) (data : List Byte) : State :=
  { s with rsp := s.rsp ++ [{ status := st, data := data }] }

/-- Taking an exception (R221, R227): the status alone is answered. -/
def State.raise (s : State) (st : Status) : State := s.respond st []

/-- R12: `emit`, here of a list of records in order. -/
def State.emit (s : State) (rs : List EvtRecord) : State := { s with evt := s.evt ++ rs }

/-- R142: `TOTAL_PACKETS <- (TOTAL_PACKETS + 1) mod 2^CNT_W`. -/
def State.countPacket (s : State) : State := { s with totalPackets := wrap s.params (s.totalPackets + 1) }

/-- R124: `TOTAL_CC_ERRORS <- (TOTAL_CC_ERRORS + 1) mod 2^CNT_W`. -/
def State.countCcError (s : State) : State := { s with totalCcErrors := wrap s.params (s.totalCcErrors + 1) }

/-- R146: the records of a dispatch through the tables: every observer in order, then the PID's handler. -/
def tableRecords (s : State) (p : BitVec 13) (e : Event) : List EvtRecord :=
  s.obs.map (fun o => { destClass := .globalObserver, destId := o, pid := p, event := e })
    ++ (if (s.slot p.toNat).hvalid then
          [{ destClass := .pidHandler, destId := (s.slot p.toNat).hid, pid := p, event := e }]
        else [])

/-- R149: the one record of a continuity error under `broadcast_only`. -/
def broadcastRecord (p : BitVec 13) (e : Event) : EvtRecord :=
  { destClass := .globalObserver, destId := 0xFFFF, pid := p, event := e }

/-- R146, R149: the records an event leaves. -/
def dispatchRecords (s : State) (p : BitVec 13) (e : Event) : List EvtRecord :=
  match e, s.params.ccErrRouting with
  | .continuityError _ _ _, .broadcastOnly => [broadcastRecord p e]
  | _, _ => tableRecords s p e

/-- R146: `Dispatch(p, e)`. -/
def State.dispatch (s : State) (p : BitVec 13) (e : Event) : State := s.emit (dispatchRecords s p e)

/-- R41, R183: every register of 10_state.md at its reset value; the parameters and the channels are no registers (R39,
R254). -/
def State.resetRegisters (s : State) : State :=
  { s with
    acc := State.reset.acc
    seen := State.reset.seen
    handlers := State.reset.handlers
    obs := State.reset.obs
    totalPackets := State.reset.totalPackets
    totalCcErrors := State.reset.totalCcErrors
    status := State.reset.status }

/-- R94, R238 (d): the entry a failure report leaves. -/
def logEntryOf (r : FailureReport) : LogEntry :=
  { kind := 0x80, destClass := r.destClass, destId := r.destId, pid := r.pid }

/-- R94: the bytes of a LOG entry, packed in the order of its fields like a record's head. -/
def LogEntry.pack (e : LogEntry) : List Byte :=
  e.kind :: e.destClass.code :: (word16 e.destId ++ word16 (e.pid.setWidth 16))

/-- R238 (d): every failure report taken, one LOG entry written for each, nothing else done. -/
def State.logFailures (s : State) : State :=
  { s with log := s.log ++ s.evtFailures.map logEntryOf, evtFailures := [] }

/-- The word taken from CMD. -/
def State.takeWord (s : State) (rest : List Byte) : State := { s with cmd := rest }

end Sys2Proof.Machine
end

