-- ==== Sys2Proof/Machine/Framer.lean ====
section
/-!
DEFINITION. The packet framer, spec/40_packet_framer.md: the pure function `Frame` from a packet to a record or an error.
-/

namespace Sys2Proof.Machine

open Sys2Proof Sys2Proof.Config

/-- R108 to R110: the unit-start half of `Frame`, given the payload offset. -/
def frameUnitStart (b : Bytes 188) (off : Nat) : Except Status (List Byte × Option (List Byte)) :=
  if h : off > 187 then .error .offsetOutOfRange
  else
    let ptr := (b.get off (by omega)).toNat
    let start := off + 1 + ptr
    if start > OFF_MAX then .error .offsetOutOfRange
    else .ok (b.slice start 188, tailOf ptr (b.slice (off + 1) start))

/-- R100: `Frame(b)`. -/
def frame (b : Bytes 188) : Except Status Framed :=
  let b1 := b.get 1 (by decide)
  let b3 := b.get 3 (by decide)
  if b.get 0 (by decide) ≠ SYNC then .error .badSync
  else if teiOf b1 then .error .transportError
  else
    let off := payloadOffset (adaptationOf b3) (b.get 4 (by decide))
    if off < OFF_MIN ∨ off > OFF_MAX then .error .offsetOutOfRange
    else
      match (if pusiOf b1 then frameUnitStart b off else .ok (b.slice off 188, none)) with
      | .error e => .error e
      | .ok (main, trailing) =>
        .ok { pid := pidOf b1 (b.get 2 (by decide)), pusi := pusiOf b1, cc := ccOf b3, afc := afcOf b3,
              tsc := tscOf b3, main := main, trailing := trailing }

end Sys2Proof.Machine
end

