-- ==== Sys2Proof/Machine/Accumulator.lean ====
section
/-!
DEFINITION. The section accumulator, spec/41_section_accumulator.md. A step of it answers the state it leaves and the
status the command ends with: `ok`, or `fatal` where R132 or R133 ends it.
-/

namespace Sys2Proof.Machine

open Sys2Proof Sys2Proof.Config

/-- R228: `Fatal(cause)`, ending the command. -/
def endFatal (s : State) (c : FatalCause) : State × Status := (s.setFatal c, .fatal)

/-- R120: `Clear(p)`. -/
def State.clearAccum (s : State) (p : Nat) : State := s.setAccum p Accum.idle

/-- R122: the accumulator that holds the first packet of a section. -/
def startedAccum (params : Params) (f : Framed) : Accum :=
  { state := .accumulating f.cc, buf := f.main, pkts := wrap params 1, bytes := wrap params f.main.length }

/-- R125: the accumulator with one packet more. -/
def appendedAccum (params : Params) (a : Accum) (f : Framed) : Accum :=
  { state := .accumulating f.cc, buf := a.buf ++ f.main, pkts := wrap params (a.pkts + 1),
    bytes := wrap params (a.bytes + f.main.length) }

/-- R121, R122, R132: the AwaitingStart handling. -/
def awaitingStart (s : State) (p : Nat) (f : Framed) : State × Status :=
  if (s.accum p).buf ≠ [] then endFatal s .invariantViolation
  else if f.pusi then
    if overflows s.params f.main.length then endFatal s .bufferOverflow
    else (s.setAccum p (startedAccum s.params f), .ok)
  else (s, .ok)

/-- R124: the counter is wrong. -/
def continuityBroken (s : State) (prev : BitVec 4) (f : Framed) : State × Status :=
  awaitingStart
    (((s.countCcError).dispatch f.pid (.continuityError prev (prev + 1) f.cc)).clearAccum f.pid.toNat) f.pid.toNat f

/-- R125, R133: the counter is right and no section starts. -/
def appendPacket (s : State) (f : Framed) : State × Status :=
  let a := s.accum f.pid.toNat
  if overflows s.params (a.buf.length + f.main.length) then endFatal s .bufferOverflow
  else (s.setAccum f.pid.toNat (appendedAccum s.params a f), .ok)

/-- R126: the counter is right and a section starts: the one in progress is complete. -/
def completeSection (s : State) (f : Framed) : State × Status :=
  awaitingStart
    ((s.dispatch f.pid (.sectionComplete ((s.accum f.pid.toNat).buf ++ f.tail))).clearAccum f.pid.toNat) f.pid.toNat f

/-- R120: `AccStep(p, f)` with `p = f.pid`; `prev + 1` on four bits is `(prev_cc + 1) mod 16` (R129). -/
def accStep (s : State) (f : Framed) : State × Status :=
  match (s.accum f.pid.toNat).state with
  | .awaitingStart => awaitingStart s f.pid.toNat f
  | .accumulating prev =>
    if f.cc ≠ prev + 1 then continuityBroken s prev f
    else if f.pusi then completeSection s f
    else appendPacket s f

end Sys2Proof.Machine
end

