-- ==== Sys2Proof/Machine/Demux.lean ====
section
/-!
DEFINITION. The demultiplexer, spec/42_demultiplexer.md: ACCEPT and the commands that change the routing tables.
-/

namespace Sys2Proof.Machine

open Sys2Proof Sys2Proof.Config

/-- R142 to R145: what ACCEPT does with a packet the framer accepts. -/
def routePacket (s : State) (f : Framed) : State × Status :=
  if f.pid = NULL_PID then (s.countPacket, .ok)
  else accStep (s.countPacket.setSeen f.pid.toNat) f

/-- R140, R141: ACCEPT, given what framing gives; in the fatal state the framer's result is not looked at. -/
def acceptFramed (s : State) (r : Except Status Framed) : State :=
  if s.fatal then s.raise .fatal
  else match r with
    | .error e => s.raise e
    | .ok f => (routePacket s f).1.raise (routePacket s f).2

/-- ACCEPT (R140). -/
def execAccept (pkt : Bytes 188) (s : State) : Host.Outcome State Fault Refusal :=
  .next (acceptFramed s (frame pkt))

/-- REGISTER_HANDLER (R150). -/
def execRegisterHandler (pid16 h16 : BitVec 16) (s : State) : Host.Outcome State Fault Refusal :=
  .next <|
    if pidBad pid16 then s.raise .badOperand
    else if s.fatal then s.raise .fatal
    else (s.setSlot pid16.toNat { hvalid := true, hid := identifier s.params h16 }).raise .ok

/-- UNREGISTER_HANDLER (R151): `hvalid` is cleared, `hid` is left. -/
def execUnregisterHandler (pid16 : BitVec 16) (s : State) : Host.Outcome State Fault Refusal :=
  .next <|
    if pidBad pid16 then s.raise .badOperand
    else if s.fatal then s.raise .fatal
    else (s.setSlot pid16.toNat { s.slot pid16.toNat with hvalid := false }).raise .ok

/-- ADD_OBSERVER (R152). -/
def execAddObserver (o16 : BitVec 16) (s : State) : Host.Outcome State Fault Refusal :=
  .next <|
    if s.fatal then s.raise .fatal
    else if s.obs.length = s.params.nObsMax then s.raise .observerTableFull
    else { s with obs := s.obs ++ [identifier s.params o16] }.raise .ok

end Sys2Proof.Machine
end

