-- ==== Sys2Proof/Machine/SectionHeader.lean ====
section
/-!
DEFINITION. The section-header parser, spec/43_section_header.md: `Hdr`, SECHDR_PARSE and the nine accessors.
-/

namespace Sys2Proof.Machine

open Sys2Proof Sys2Proof.Config

/-- R160, R169: the header record; the five long-form fields do not exist in a short one. -/
inductive Header where
  | short (tableId : Byte) (sectionLength : BitVec 12) (bodyOffset : BitVec 4)
  | long (tableId : Byte) (sectionLength : BitVec 12) (tableIdExtension : BitVec 16) (versionNumber : BitVec 5)
      (currentNext : BitVec 1) (sectionNumber lastSectionNumber : Byte) (bodyOffset : BitVec 4)
deriving DecidableEq, Repr

/-- R163 to R165: the rest of a long-form header, from byte 3. -/
def longHeader (tableId : Byte) (sectionLength : BitVec 12) : List Byte → Except Status Header
  | s3 :: s4 :: s5 :: s6 :: s7 :: _ =>
    .ok (.long tableId sectionLength (be16 s3 s4) (versionOf s5) (currentNextOf s5) s6 s7 LONG_BODY_OFF)
  | _ => .error .sectionTruncated

/-- R165: a short-form header. -/
def shortHeader (tableId : Byte) (sectionLength : BitVec 12) : Header :=
  .short tableId sectionLength SHORT_BODY_OFF

/-- R160: `Hdr(s)`. -/
def hdr : List Byte → Except Status Header
  | s0 :: s1 :: s2 :: rest =>
    if ssiOf s1 then longHeader s0 (sectionLengthOf s1 s2) rest
    else .ok (shortHeader s0 (sectionLengthOf s1 s2))
  | _ => .error .sectionTruncated

/-- R93: a field as one byte. -/
def byteOf {n : Nat} (v : BitVec n) : List Byte := [v.setWidth 8]

/-- R93: the 13 data bytes of SECHDR_PARSE; the long-form fields of a short header are sent as 0. -/
def Header.pack (pid16 : BitVec 16) : Header → List Byte
  | .short tid len off =>
    word16 pid16 ++ (byteOf tid ++ ([0] ++ (word16 (len.setWidth 16) ++ ([0, 0, 0, 0, 0, 0] ++ byteOf off))))
  | .long tid len ext ver cn sn lsn off =>
    word16 pid16 ++ (byteOf tid ++ ([1] ++ (word16 (len.setWidth 16) ++ (word16 ext ++
      (byteOf ver ++ (byteOf cn ++ (byteOf sn ++ (byteOf lsn ++ byteOf off))))))))

/-- R160: SECHDR_PARSE, given what the header decode gives. -/
def parseAnswer (s : State) (pid16 : BitVec 16) (r : Except Status Header) : State :=
  if pidBad pid16 then s.raise .badOperand
  else match r with
    | .error e => s.raise e
    | .ok h => s.respond .ok (h.pack pid16)

/-- SECHDR_PARSE (R160). -/
def execSechdrParse (pid16 : BitVec 16) (sec : List Byte) (s : State) : Host.Outcome State Fault Refusal :=
  .next (parseAnswer s pid16 (hdr sec))

/-- R170: the part of SECHDR_GET common to all selectors; `field` answers nothing where the field does not exist. -/
def getAnswer (s : State) (pid16 : BitVec 16) (sec : List Byte) (field : Header → Option (BitVec 16)) : State :=
  if pidBad pid16 then s.raise .badOperand
  else match hdr sec with
    | .error e => s.raise e
    | .ok h => match field h with
      | none => s.raise .invalidState
      | some v => s.respond .ok (word16 v)

/-- R171. -/
def Header.tableId? : Header → Option (BitVec 16)
  | .short tid _ _ => some (tid.setWidth 16)
  | .long tid _ _ _ _ _ _ _ => some (tid.setWidth 16)

/-- R172. -/
def Header.syntaxIndicator? : Header → Option (BitVec 16)
  | .short _ _ _ => some 0
  | .long _ _ _ _ _ _ _ _ => some 1

/-- R173. -/
def Header.sectionLength? : Header → Option (BitVec 16)
  | .short _ len _ => some (len.setWidth 16)
  | .long _ len _ _ _ _ _ _ => some (len.setWidth 16)

/-- R174. -/
def Header.tableIdExtension? : Header → Option (BitVec 16)
  | .short _ _ _ => none
  | .long _ _ ext _ _ _ _ _ => some ext

/-- R175. -/
def Header.versionNumber? : Header → Option (BitVec 16)
  | .short _ _ _ => none
  | .long _ _ _ ver _ _ _ _ => some (ver.setWidth 16)

/-- R176. -/
def Header.currentNext? : Header → Option (BitVec 16)
  | .short _ _ _ => none
  | .long _ _ _ _ cn _ _ _ => some (cn.setWidth 16)

/-- R177. -/
def Header.sectionNumber? : Header → Option (BitVec 16)
  | .short _ _ _ => none
  | .long _ _ _ _ _ sn _ _ => some (sn.setWidth 16)

/-- R178. -/
def Header.lastSectionNumber? : Header → Option (BitVec 16)
  | .short _ _ _ => none
  | .long _ _ _ _ _ _ lsn _ => some (lsn.setWidth 16)

/-- R179. -/
def Header.bodyOffset? : Header → Option (BitVec 16)
  | .short _ _ off => some (off.setWidth 16)
  | .long _ _ _ _ _ _ _ off => some (off.setWidth 16)

/-- SECHDR_GET sel=0 (R171). -/
def execSechdrGetTableId (pid16 : BitVec 16) (sec : List Byte) (s : State) : Host.Outcome State Fault Refusal :=
  .next (getAnswer s pid16 sec Header.tableId?)

/-- SECHDR_GET sel=1 (R172). -/
def execSechdrGetSyntaxIndicator (pid16 : BitVec 16) (sec : List Byte) (s : State) :
    Host.Outcome State Fault Refusal :=
  .next (getAnswer s pid16 sec Header.syntaxIndicator?)

/-- SECHDR_GET sel=2 (R173). -/
def execSechdrGetSectionLength (pid16 : BitVec 16) (sec : List Byte) (s : State) :
    Host.Outcome State Fault Refusal :=
  .next (getAnswer s pid16 sec Header.sectionLength?)

/-- SECHDR_GET sel=3 (R174). -/
def execSechdrGetTableIdExtension (pid16 : BitVec 16) (sec : List Byte) (s : State) :
    Host.Outcome State Fault Refusal :=
  .next (getAnswer s pid16 sec Header.tableIdExtension?)

/-- SECHDR_GET sel=4 (R175). -/
def execSechdrGetVersionNumber (pid16 : BitVec 16) (sec : List Byte) (s : State) :
    Host.Outcome State Fault Refusal :=
  .next (getAnswer s pid16 sec Header.versionNumber?)

/-- SECHDR_GET sel=5 (R176). -/
def execSechdrGetCurrentNext (pid16 : BitVec 16) (sec : List Byte) (s : State) :
    Host.Outcome State Fault Refusal :=
  .next (getAnswer s pid16 sec Header.currentNext?)

/-- SECHDR_GET sel=6 (R177). -/
def execSechdrGetSectionNumber (pid16 : BitVec 16) (sec : List Byte) (s : State) :
    Host.Outcome State Fault Refusal :=
  .next (getAnswer s pid16 sec Header.sectionNumber?)

/-- SECHDR_GET sel=7 (R178). -/
def execSechdrGetLastSectionNumber (pid16 : BitVec 16) (sec : List Byte) (s : State) :
    Host.Outcome State Fault Refusal :=
  .next (getAnswer s pid16 sec Header.lastSectionNumber?)

/-- SECHDR_GET sel=8 (R179). -/
def execSechdrGetBodyOffset (pid16 : BitVec 16) (sec : List Byte) (s : State) : Host.Outcome State Fault Refusal :=
  .next (getAnswer s pid16 sec Header.bodyOffset?)

end Sys2Proof.Machine
end

