-- ==== Sys2Proof/Machine/Forms.lean ====
section
/-!
DEFINITION. The meanings of the form rows: an ACCEPT whose packet is of a given form (spec/30_encoding.md R83), its fields
taken apart as that form's layout says, and a SECHDR_PARSE whose section header is of a given form (R91). They are written
from the layouts of the forms, not from `frame` and `hdr`; that both ways agree is an obligation.

In a form's `body`, index `i` is byte `4 + i` of the packet.
-/

namespace Sys2Proof.Machine

open Sys2Proof Sys2Proof.Config

/-- The record of a packet whose main payload is bytes `main` (R111). -/
def formRecord (h : TsHeader) (pusi adaptation : Bool) (main : List Byte) (trailing : Option (List Byte)) : Framed :=
  { pid := h.pid, pusi := pusi, cc := h.cc, afc := BitVec.ofBool adaptation ++ BitVec.ofBool h.payloadPresent,
    tsc := h.tsc, main := main, trailing := trailing }

/-- R83, form TS.P: main payload from byte 4. -/
def framePlain (h : TsHeader) (body : Bytes 184) : Except Status Framed :=
  .ok (formRecord h false false body.data none)

/-- R83, R84, form TS.AP: the field length at byte 4, the field, the main payload. -/
def frameAdaptation (h : TsHeader) (body : Bytes 184) : Except Status Framed :=
  let len := (body.get 0 (by decide)).toNat
  if len > 183 then .error .offsetOutOfRange
  else .ok (formRecord h false true (body.data.drop (1 + len)) none)

/-- R85: a pointer byte at `body[k]`, the tail, the main payload. -/
def framePointer (h : TsHeader) (adaptation : Bool) (body : Bytes 184) (k : Nat) : Except Status Framed :=
  if hk : k < 184 then
    let ptr := (body.get k hk).toNat
    if k + 1 + ptr > 184 then .error .offsetOutOfRange
    else .ok (formRecord h true adaptation (body.data.drop (k + 1 + ptr))
      (tailOf ptr ((body.data.drop (k + 1)).take ptr)))
  else .error .offsetOutOfRange

/-- TS.P: an ACCEPT of a packet with a payload only. -/
def execTsP (h : TsHeader) (body : Bytes 184) (s : State) : Host.Outcome State Fault Refusal :=
  .next (acceptFramed s (framePlain h body))

/-- TS.AP: an ACCEPT of a packet with an adaptation field, then the payload. -/
def execTsAp (h : TsHeader) (body : Bytes 184) (s : State) : Host.Outcome State Fault Refusal :=
  .next (acceptFramed s (frameAdaptation h body))

/-- TS.SP: an ACCEPT of a unit-start packet; the pointer byte is byte 4. -/
def execTsSp (h : TsHeader) (body : Bytes 184) (s : State) : Host.Outcome State Fault Refusal :=
  .next (acceptFramed s (framePointer h false body 0))

/-- TS.ASP: an ACCEPT of a unit-start packet with an adaptation field; the pointer byte follows the field. -/
def execTsAsp (h : TsHeader) (body : Bytes 184) (s : State) : Host.Outcome State Fault Refusal :=
  .next (acceptFramed s (framePointer h true body (1 + (body.get 0 (by decide)).toNat)))

/-- TS.TEI: an ACCEPT of a packet with good sync and the error bit set; nothing else is looked at (R102). -/
def execTsTei (_low7 : BitVec 7) (_rest : Bytes 186) (s : State) : Host.Outcome State Fault Refusal :=
  .next (acceptFramed s (.error .transportError))

/-- TS.BADSYNC: an ACCEPT of anything else, that is a packet whose byte 0 is not the sync byte (R101). -/
def execTsBadsync (_pkt : Bytes 188) (s : State) : Host.Outcome State Fault Refusal :=
  .next (acceptFramed s (.error .badSync))

/-- SH.LONG: a SECHDR_PARSE of a section whose header is of the long form. -/
def execShLong (pid16 : BitVec 16) (h : SecHead) (rest : List Byte) (s : State) :
    Host.Outcome State Fault Refusal :=
  .next (parseAnswer s pid16 (longHeader h.tableId h.sectionLength rest))

/-- SH.SHORT: a SECHDR_PARSE of a section whose header is of the short form. -/
def execShShort (pid16 : BitVec 16) (h : SecHead) (_rest : List Byte) (s : State) :
    Host.Outcome State Fault Refusal :=
  .next (parseAnswer s pid16 (.ok (shortHeader h.tableId h.sectionLength)))

end Sys2Proof.Machine
end

