-- ==== Sys2Proof/Machine/HostCommands.lean ====
section
/-!
DEFINITION. READ_CSR, READ_ACC and RESET, spec/44_host_commands.md.
-/

namespace Sys2Proof.Machine

open Sys2Proof Sys2Proof.Config

/-- R32: the control and status registers by number. -/
def State.csr (s : State) (n8 : Byte) : Option Nat :=
  match n8.toNat with
  | 0x00 => some s.totalPackets
  | 0x01 => some s.totalCcErrors
  | 0x02 => some (statusRead s.status).toNat
  | _ => none

/-- R37: the diagnostic counters of an accumulator by selector. -/
def Accum.counter (a : Accum) (sel8 : Byte) : Option Nat :=
  match sel8.toNat with
  | 0 => some a.pkts
  | 1 => some a.bytes
  | _ => none

/-- R93: the answer of a register read, `zext_64` of the value, or `BadOperand`. -/
def readAnswer (s : State) (value : Option Nat) : State :=
  match value with
  | some v => s.respond .ok (beBytes 8 v)
  | none => s.raise .badOperand

/-- READ_CSR (R181). -/
def execReadCsr (n8 : Byte) (s : State) : Host.Outcome State Fault Refusal := .next (readAnswer s (s.csr n8))

/-- READ_ACC (R182). -/
def execReadAcc (pid16 : BitVec 16) (sel8 : Byte) (s : State) : Host.Outcome State Fault Refusal :=
  .next (if pidBad pid16 then s.raise .badOperand else readAnswer s ((s.accum pid16.toNat).counter sel8))

/-- RESET (R183). -/
def execReset (s : State) : Host.Outcome State Fault Refusal := .next (s.resetRegisters.raise .ok)

end Sys2Proof.Machine
end

