-- ==== Sys2Proof/Machine/Dispatch.lean ====
section
/-!
DEFINITION. One arm per constructor of Instr, each one direct call of its meaning.
-/

namespace Sys2Proof.Machine

open Sys2Proof

def exec (i : Instr) (s : State) : Host.Outcome State Fault Refusal :=
  match i with
  | .accept pkt => Sys2Proof.Machine.execAccept pkt s
  | .registerHandler pid16 h16 => Sys2Proof.Machine.execRegisterHandler pid16 h16 s
  | .unregisterHandler pid16 => Sys2Proof.Machine.execUnregisterHandler pid16 s
  | .addObserver o16 => Sys2Proof.Machine.execAddObserver o16 s
  | .readCsr n8 => Sys2Proof.Machine.execReadCsr n8 s
  | .readAcc pid16 sel8 => Sys2Proof.Machine.execReadAcc pid16 sel8 s
  | .sechdrParse pid16 sec => Sys2Proof.Machine.execSechdrParse pid16 sec s
  | .sechdrGetTableId pid16 sec => Sys2Proof.Machine.execSechdrGetTableId pid16 sec s
  | .sechdrGetSyntaxIndicator pid16 sec => Sys2Proof.Machine.execSechdrGetSyntaxIndicator pid16 sec s
  | .sechdrGetSectionLength pid16 sec => Sys2Proof.Machine.execSechdrGetSectionLength pid16 sec s
  | .sechdrGetTableIdExtension pid16 sec => Sys2Proof.Machine.execSechdrGetTableIdExtension pid16 sec s
  | .sechdrGetVersionNumber pid16 sec => Sys2Proof.Machine.execSechdrGetVersionNumber pid16 sec s
  | .sechdrGetCurrentNext pid16 sec => Sys2Proof.Machine.execSechdrGetCurrentNext pid16 sec s
  | .sechdrGetSectionNumber pid16 sec => Sys2Proof.Machine.execSechdrGetSectionNumber pid16 sec s
  | .sechdrGetLastSectionNumber pid16 sec => Sys2Proof.Machine.execSechdrGetLastSectionNumber pid16 sec s
  | .sechdrGetBodyOffset pid16 sec => Sys2Proof.Machine.execSechdrGetBodyOffset pid16 sec s
  | .reset => Sys2Proof.Machine.execReset s
  | .tsTei low7 rest => Sys2Proof.Machine.execTsTei low7 rest s
  | .tsP hdr body => Sys2Proof.Machine.execTsP hdr body s
  | .tsAp hdr body => Sys2Proof.Machine.execTsAp hdr body s
  | .tsSp hdr body => Sys2Proof.Machine.execTsSp hdr body s
  | .tsAsp hdr body => Sys2Proof.Machine.execTsAsp hdr body s
  | .tsBadsync pkt => Sys2Proof.Machine.execTsBadsync pkt s
  | .shLong pid16 head rest => Sys2Proof.Machine.execShLong pid16 head rest s
  | .shShort pid16 head rest => Sys2Proof.Machine.execShShort pid16 head rest s

end Sys2Proof.Machine
end

