-- ==== Sys2Proof/Machine/Fetch.lean ====
section
/-!
DEFINITION. Taking the next command from CMD (00_scope.md R7, R8): what a step does around the instruction it runs.
-/

namespace Sys2Proof.Machine

open Sys2Proof

/-- What a step finds at the head of CMD, and the state in which it goes on: failure reports logged (R238), the word taken. -/
inductive Fetched where
  | idle (s : State)                    -- no whole word: the block waits (70_reset_and_hazards.md R252)
  | rejected (s : State) (st : Status)  -- a word no instruction stands for (30_encoding.md R81)
  | run (i : Instr) (s : State)
deriving DecidableEq, Repr

/-- Fetching from CMD. -/
def fetch (s : State) : Fetched :=
  match decode s.cmd with
  | .incomplete => .idle s.logFailures
  | .badCommand rest => .rejected (s.logFailures.takeWord rest) .badCommand
  | .badSelector rest => .rejected (s.logFailures.takeWord rest) .badOperand
  | .instr i rest => .run i (s.logFailures.takeWord rest)

/-- The bytes put before what is on CMD. -/
def State.sendFirst (s : State) (bs : List Byte) : State := { s with cmd := bs ++ s.cmd }

end Sys2Proof.Machine
end

