-- ==== Sys2Proof/Machine/Step.lean ====
section
/-!
DEFINITION. One step: the next command of CMD, executed to completion (00_scope.md R8, 20_memory.md R60).
-/

namespace Sys2Proof.Machine

open Sys2Proof

/-- One step of the machine. -/
def step (s : State) : Host.Outcome State Fault Refusal :=
  match fetch s with
  | .idle t => .next t
  | .rejected t st => .next (t.raise st)
  | .run i t => exec i t

/-- The state in which the very next step runs the opcode-table word `w`: its command word stands first on CMD. -/
def State.withFetchWord (s : State) (nbits w : Nat) : State := s.sendFirst (tableWordBytes nbits w)

end Sys2Proof.Machine
end

