-- ==== Sys2Proof/Safety.lean ====
section
/-!
DEFINITION. What a good state of the block is, in the terms statements use: no fault recorded (spec/10_state.md R36), the
canonical form of the PID-indexed files, and the ranges and shapes 10_state.md gives its registers. And a run of several
packets, for the statements about streams.
-/

namespace Sys2Proof.Machine

open Sys2Proof Sys2Proof.Config

/-- R36, 93_implementation_defined.md U1 and U2: no fault is recorded. -/
def State.noFault (s : State) : Prop := s.fatal = false

/-- The PID-indexed files are in canonical form. -/
def State.filesCanonical (s : State) : Prop :=
  Memory.wf Accum.idle s.acc ∧ Memory.wf false s.seen ∧ Memory.wf HandlerSlot.empty s.handlers

/-- R29, R25: an idle accumulator is empty and its counters are 0; in an accumulating one, `bytes` is the length of the
buffer modulo 2^CNT_W, `pkts` fits its width, and the buffer is within `SECTION_BUF_MAX`. -/
def Accum.ok (p : Params) (a : Accum) : Prop :=
  match a.state with
  | .awaitingStart => a.buf = [] ∧ a.pkts = 0 ∧ a.bytes = 0
  | .accumulating _ => a.bytes = wrap p a.buf.length ∧ a.pkts < 2 ^ p.cntW.val ∧ overflows p a.buf.length = false

/-- R29 of every accumulator. -/
def State.accumsOk (s : State) : Prop := ∀ p, (s.accum p).ok s.params

/-- R22, R28: entry 0x1FFF of the accumulator file is as reset leaves it, and never seen. -/
def State.nullPidUntouched (s : State) : Prop := s.accum 0x1FFF = Accum.idle ∧ s.seenBit 0x1FFF = false

/-- R58: nothing is held outside the PID space. -/
def State.pidsInRange (s : State) : Prop :=
  ∀ p, 8192 ≤ p → s.accum p = Accum.idle ∧ s.seenBit p = false ∧ s.slot p = HandlerSlot.empty

/-- R28: an accumulator that is not as reset leaves it has been created. -/
def State.seenCovers (s : State) : Prop := ∀ p, s.accum p ≠ Accum.idle → s.seenBit p = true

/-- R35: the values `STATUS` can have: no fault, `InvariantViolation`, `BufferOverflow`. -/
def State.statusLegal (s : State) : Prop := s.status = 0x00 ∨ s.status = 0x03 ∨ s.status = 0x05

/-- R29: an accumulating accumulator has counted a packet. It holds as long as the count does not wrap
(notes/assumptions/3.md). -/
def State.pktsPositive (s : State) : Prop :=
  ∀ p prev, (s.accum p).state = .accumulating prev → 1 ≤ (s.accum p).pkts

/-- R30 to R34: the counters are within `CNT_W` bits, the identifiers within `ID_W` bits and the observer list within
`N_OBS_MAX`. -/
def State.sizesFit (s : State) : Prop :=
  s.totalPackets < 2 ^ s.params.cntW.val ∧ s.totalCcErrors < 2 ^ s.params.cntW.val ∧
    s.obs.length ≤ s.params.nObsMax ∧ (∀ o ∈ s.obs, o.toNat < 2 ^ s.params.idW) ∧
    ∀ p, (s.slot p).hid.toNat < 2 ^ s.params.idW

/-- Every register of 10_state.md (R20) is the same. -/
def State.sameRegisters (s t : State) : Prop :=
  t.acc = s.acc ∧ t.seen = s.seen ∧ t.handlers = s.handlers ∧ t.obs = s.obs ∧
    t.totalPackets = s.totalPackets ∧ t.totalCcErrors = s.totalCcErrors ∧ t.status = s.status

/-- The state after the ACCEPT of each packet of a list, in order; `none` should one not answer a next state. -/
def acceptAll : List (Bytes 188) → State → Option State
  | [], s => some s
  | p :: ps, s =>
    match exec (.accept p) s with
    | .next t => acceptAll ps t
    | _ => none

end Sys2Proof.Machine
end

