-- ==== Sys2Proof/Certificates/Slice0/Obligations.lean ====
section
/-!
DEFINITION. The statements about the block, each the formal reading of what spec/ says an operation, a command or the whole
machine does. "The response is appended" stands for RSP; a clause `t = { s with … }` is a frame: every field it does not
list is unchanged.
-/

open Sys2Proof Sys2Proof.Machine Sys2Proof.Config

/-! ### Decoding and encoding -/

/-- Decoding an encoded well-formed instruction gives it back: a command from the first level, a packet or
section-header form from the second (30_encoding.md R70 to R91). -/
def Obligations.DecodeEncodeRoundTrip : Prop :=
  ∀ (i : Instr) (rest : List Byte), i.wellFormed = true →
    (i.isCommand = true → decode (encode i ++ rest) = .instr i rest) ∧
    (i.isCommand = false → decodeForm (encode i ++ rest) = .instr i rest)

/-- What is decoded is well-formed, and encoding it gives the bytes back, at either level: no bit of a word is dropped. -/
def Obligations.EncodeDecodeGivesTheBytesBack : Prop :=
  ∀ (bs : List Byte) (i : Instr) (rest : List Byte),
    (decode bs = .instr i rest → i.wellFormed = true ∧ i.isCommand = true ∧ encode i ++ rest = bs) ∧
    (decodeForm bs = .instr i rest → i.wellFormed = true ∧ encode i ++ rest = bs)

/-- Words written out from the encodings of 30_encoding.md decode to the instruction they stand for. -/
def Obligations.WrittenOutWordsDecode : Prop :=
  decode [0x02, 0x00, 0x30, 0x00, 0x09] = .instr (.registerHandler 0x0030 0x0009) [] ∧
  decode [0x03, 0x1F, 0xFB] = .instr (.unregisterHandler 0x1FFB) [] ∧
  decode [0x04, 0x00, 0x01, 0xFF] = .instr (.addObserver 0x0001) [0xFF] ∧
  decode [0x05, 0x02] = .instr (.readCsr 2) [] ∧
  decode [0x06, 0x00, 0x30, 0x01] = .instr (.readAcc 0x0030 1) [] ∧
  decode [0x10, 0x00, 0x07, 0, 0, 0, 3, 0x80, 0x7F, 0xFF] = .instr (.sechdrParse 0x0007 [0x80, 0x7F, 0xFF]) [] ∧
  decode [0x11, 0x04, 0x00, 0x00, 0, 0, 0, 1, 0xCD] = .instr (.sechdrGetVersionNumber 0 [0xCD]) [] ∧
  decode [0xFF] = .instr .reset [] ∧
  decodeForm [0x10, 0x00, 0x07, 0, 0, 0, 3, 0x80, 0x7F, 0xFF] =
    .instr (.shShort 0x0007 { tableId := 0x80, unread := 7, sectionLength := 0xFFF } []) []

/-- R83: the form of a packet is the row whose mask and match its header word meets, TS.BADSYNC where none of the other
five does. -/
def Obligations.PacketFormIsTheMatchingRow : Prop :=
  ∀ (b0 b1 b2 b3 : Byte) (body : Bytes 184) (p : Bytes 188), p.data = b0 :: b1 :: b2 :: b3 :: body.data →
    let hdr : BitVec 32 := b0 ++ b1 ++ b2 ++ b3
    (hdr &&& 0xFF800000 = 0x47800000 → ∃ low7 rest, packetForm p = .tsTei low7 rest) ∧
    (hdr &&& 0xFFC00020 = 0x47000000 → ∃ h, packetForm p = .tsP h body) ∧
    (hdr &&& 0xFFC00020 = 0x47000020 → ∃ h, packetForm p = .tsAp h body) ∧
    (hdr &&& 0xFFC00020 = 0x47400000 → ∃ h, packetForm p = .tsSp h body) ∧
    (hdr &&& 0xFFC00020 = 0x47400020 → ∃ h, packetForm p = .tsAsp h body) ∧
    (hdr &&& 0xFF800000 ≠ 0x47800000 → hdr &&& 0xFFC00020 ≠ 0x47000000 → hdr &&& 0xFFC00020 ≠ 0x47000020 →
      hdr &&& 0xFFC00020 ≠ 0x47400000 → hdr &&& 0xFFC00020 ≠ 0x47400020 → packetForm p = .tsBadsync p)

/-! ### One step -/

/-- A step runs the instruction the bytes at the head of CMD decode to, on the state with the word taken from CMD and the
failure reports that came back along EVT logged. Two clauses are the model's choice: that CMD is a byte stream the step takes
one word from (notes/assumptions/7.md), and that a step takes and logs every failure report first, R238 (d) not saying when
(notes/assumptions/10.md). -/
def Obligations.StepRunsTheDecodedCommand : Prop :=
  ∀ (s : State) (i : Instr) (rest : List Byte), decode s.cmd = .instr i rest →
    step s = exec i { s with cmd := rest, log := s.log ++ s.evtFailures.map logEntryOf, evtFailures := [] }

/-- The meanings written from the layouts of the packet and header forms (R83, R91) and the meanings of ACCEPT and
SECHDR_PARSE written from `Frame` (R100) and `Hdr` (R160) are the same function; so a step runs the form that the second
level of decoding reads. That the step takes the word from a byte stream and first takes and logs every failure report is
the model's choice (notes/assumptions/7.md, notes/assumptions/10.md). -/
def Obligations.FormsAgreeWithFrameAndHdr : Prop :=
  (∀ (i : Instr) (s : State), i.wellFormed = true → exec i s = exec i.command s) ∧
  (∀ (i : Instr) (s : State), exec i.form s = exec i s) ∧
  (∀ (s : State) (i : Instr) (rest : List Byte), decodeForm s.cmd = .instr i rest →
    step s = exec i { s with cmd := rest, log := s.log ++ s.evtFailures.map logEntryOf, evtFailures := [] })

/-- R81, R184: a byte that is none of the nine opcodes is a word of its own, answered `BadCommand`; the command has no other
effect. That the step around it takes and logs every failure report is the model's choice (notes/assumptions/10.md), as is
CMD as a byte stream (notes/assumptions/7.md). -/
def Obligations.UndefinedOpcodeIsBadCommand : Prop :=
  ∀ (s : State) (op : Byte) (rest : List Byte), s.cmd = op :: rest →
    op ≠ 0x01 → op ≠ 0x02 → op ≠ 0x03 → op ≠ 0x04 → op ≠ 0x05 → op ≠ 0x06 → op ≠ 0x10 → op ≠ 0x11 → op ≠ 0xFF →
    step s = .next { s with cmd := rest, rsp := s.rsp ++ [⟨.badCommand, []⟩],
                            log := s.log ++ s.evtFailures.map logEntryOf, evtFailures := [] }

/-- R79, R81: a SECHDR_GET whose selector is above 8 is answered `BadOperand`; the command has no other effect. Two clauses
are the model's: that the whole word is taken from CMD (notes/assumptions/7.md, deduced from R95), and that the step around
it takes and logs every failure report (notes/assumptions/10.md). -/
def Obligations.ReservedSelectorIsBadOperand : Prop :=
  ∀ (s : State) (sel p1 p0 l3 l2 l1 l0 : Byte) (sec rest : List Byte), 8 < sel.toNat →
    sec.length = be32 l3 l2 l1 l0 →
    s.cmd = 0x11 :: sel :: p1 :: p0 :: l3 :: l2 :: l1 :: l0 :: (sec ++ rest) →
    step s = .next { s with cmd := rest, rsp := s.rsp ++ [⟨.badOperand, []⟩],
                            log := s.log ++ s.evtFailures.map logEntryOf, evtFailures := [] }

/-- Every step answers a next state, whatever the state; it puts exactly one response on RSP for a whole word of CMD
(00_scope.md R7); what is on EVT and LOG is only added to (R254). Two clauses are the model's choice: that a step waits, with
no response, while CMD holds no whole word (notes/assumptions/7.md), and that every step takes every failure report and
writes one LOG entry for it (notes/assumptions/10.md). -/
def Obligations.OneResponsePerCommand : Prop :=
  ∀ s : State, ∃ t records, step s = .next t ∧
    (decode s.cmd = .incomplete → t.rsp = s.rsp ∧ records = []) ∧
    (decode s.cmd ≠ .incomplete → ∃ r, t.rsp = s.rsp ++ [r]) ∧
    t.evt = s.evt ++ records ∧ t.log = s.log ++ s.evtFailures.map logEntryOf ∧ t.evtFailures = []

/-! ### The routing-table commands -/

/-- R150: REGISTER_HANDLER fills the PID's slot, replacing what was there, and touches nothing else. The slot holds the
identifier whole where it fits `ID_W` bits, always with the default; one that does not fit is a free value of `ID_W` bits,
by the model's choice (notes/assumptions/2.md). -/
def Obligations.RegisterHandlerFillsTheSlot : Prop :=
  ∀ (pid16 h16 : BitVec 16) (s : State), pid16.toNat ≤ 0x1FFF → s.fatal = false →
    ∃ t, exec (.registerHandler pid16 h16) s = .next t ∧
      (t.slot pid16.toNat).hvalid = true ∧
      (h16.toNat < 2 ^ s.params.idW → (t.slot pid16.toNat).hid = h16) ∧
      (t.slot pid16.toNat).hid.toNat < 2 ^ s.params.idW ∧
      (∀ q, q ≠ pid16.toNat → t.slot q = s.slot q) ∧
      t = { s with handlers := t.handlers, rsp := s.rsp ++ [⟨.ok, []⟩] }

/-- R151: UNREGISTER_HANDLER empties the PID's slot, filled or not, and touches nothing else. That the identifier stays in
the slot it empties is the model's choice (notes/assumptions/6.md). -/
def Obligations.UnregisterHandlerEmptiesTheSlot : Prop :=
  ∀ (pid16 : BitVec 16) (s : State), pid16.toNat ≤ 0x1FFF → s.fatal = false →
    ∃ t, exec (.unregisterHandler pid16) s = .next t ∧
      t.slot pid16.toNat = { hvalid := false, hid := (s.slot pid16.toNat).hid } ∧
      (∀ q, q ≠ pid16.toNat → t.slot q = s.slot q) ∧
      t = { s with handlers := t.handlers, rsp := s.rsp ++ [⟨.ok, []⟩] }

/-- R152: ADD_OBSERVER appends to the list, or answers `ObserverTableFull` when the list is full. The entry is the
identifier where it fits `ID_W` bits, always with the default; one that does not fit is a free value of `ID_W` bits, by the
model's choice (notes/assumptions/2.md). -/
def Obligations.AddObserverAppendsOrIsFull : Prop :=
  ∀ (o16 : BitVec 16) (s : State), s.fatal = false →
    (s.obs.length ≠ s.params.nObsMax →
      ∃ o : BitVec 16, (o16.toNat < 2 ^ s.params.idW → o = o16) ∧ o.toNat < 2 ^ s.params.idW ∧
        exec (.addObserver o16) s = .next { s with obs := s.obs ++ [o], rsp := s.rsp ++ [⟨.ok, []⟩] }) ∧
    (s.obs.length = s.params.nObsMax →
      exec (.addObserver o16) s = .next { s with rsp := s.rsp ++ [⟨.observerTableFull, []⟩] })

/-- R81: a PID operand with one of bits 15 to 13 set is answered `BadOperand` by REGISTER_HANDLER, UNREGISTER_HANDLER,
READ_ACC, SECHDR_PARSE and every SECHDR_GET, whatever the state, and nothing changes. -/
def Obligations.PidOutOfRangeIsBadOperand : Prop :=
  ∀ (pid16 h16 : BitVec 16) (sel8 : Byte) (sec rest : List Byte) (head : SecHead) (s : State), 0x1FFF < pid16.toNat →
    ∀ i ∈ [Instr.registerHandler pid16 h16, .unregisterHandler pid16, .readAcc pid16 sel8, .sechdrParse pid16 sec,
        .sechdrGetTableId pid16 sec, .sechdrGetSyntaxIndicator pid16 sec, .sechdrGetSectionLength pid16 sec,
        .sechdrGetTableIdExtension pid16 sec, .sechdrGetVersionNumber pid16 sec, .sechdrGetCurrentNext pid16 sec,
        .sechdrGetSectionNumber pid16 sec, .sechdrGetLastSectionNumber pid16 sec, .sechdrGetBodyOffset pid16 sec,
        .shLong pid16 head rest, .shShort pid16 head rest],
      exec i s = .next { s with rsp := s.rsp ++ [⟨.badOperand, []⟩] }

/-! ### The host commands -/

/-- R181: READ_CSR answers the register as 64 bits, big-endian (R93), the reserved bits of STATUS as 0 (R35, as
notes/assumptions/13.md takes it); above 2, `BadOperand`. -/
def Obligations.ReadCsrAnswersTheRegister : Prop :=
  ∀ s : State,
    exec (.readCsr 0x00) s = .next { s with rsp := s.rsp ++ [⟨.ok, beBytes 8 s.totalPackets⟩] } ∧
    exec (.readCsr 0x01) s = .next { s with rsp := s.rsp ++ [⟨.ok, beBytes 8 s.totalCcErrors⟩] } ∧
    exec (.readCsr 0x02) s =
      .next { s with rsp := s.rsp ++ [⟨.ok, [0, 0, 0, 0, 0, 0, 0, s.status &&& 0x07]⟩] } ∧
    ∀ n8 : Byte, 2 < n8.toNat → exec (.readCsr n8) s = .next { s with rsp := s.rsp ++ [⟨.badOperand, []⟩] }

/-- R182: READ_ACC answers `BadOperand` for a PID out of range or a selector above 1, the accumulator's packet count for
selector 0, its byte count for selector 1; for the null PID and for a PID whose accumulator is idle, never seen ones among
them, both read 0 (in a state that meets the invariants of R28 and R29). It works in every state and changes nothing. -/
def Obligations.ReadAccAnswersTheCounter : Prop :=
  ∀ (pid16 : BitVec 16) (sel8 : Byte) (s : State),
    (0x1FFF < pid16.toNat ∨ 1 < sel8.toNat →
      exec (.readAcc pid16 sel8) s = .next { s with rsp := s.rsp ++ [⟨.badOperand, []⟩] }) ∧
    (pid16.toNat ≤ 0x1FFF →
      exec (.readAcc pid16 0) s =
        .next { s with rsp := s.rsp ++ [⟨.ok, beBytes 8 (s.accum pid16.toNat).pkts⟩] } ∧
      exec (.readAcc pid16 1) s =
        .next { s with rsp := s.rsp ++ [⟨.ok, beBytes 8 (s.accum pid16.toNat).bytes⟩] }) ∧
    (pid16.toNat ≤ 0x1FFF → sel8.toNat ≤ 1 → s.accumsOk → s.nullPidUntouched → s.seenCovers →
      (pid16 = 0x1FFF ∨ s.seenBit pid16.toNat = false ∨ (s.accum pid16.toNat).state = .awaitingStart) →
      exec (.readAcc pid16 sel8) s = .next { s with rsp := s.rsp ++ [⟨.ok, [0, 0, 0, 0, 0, 0, 0, 0]⟩] })

/-- R183, R41, R254: RESET, in the fatal state too, leaves every register as it is in the reset state, answers OK, and
leaves the parameters and what is on the channels alone. The identifier in the handler slots it empties is 0 by the model's
choice (notes/assumptions/6.md). -/
def Obligations.ResetRestoresEveryRegister : Prop :=
  ∀ s : State, exec .reset s = .next { State.reset with
    params := s.params, cmd := s.cmd, evtFailures := s.evtFailures, rsp := s.rsp ++ [⟨.ok, []⟩], evt := s.evt,
    log := s.log }

/-- R41: what reset leaves, register by register. -/
def Obligations.ResetValues : Prop :=
  (∀ p, State.reset.accum p = { state := .awaitingStart, buf := [], pkts := 0, bytes := 0 }) ∧
  (∀ p, State.reset.seenBit p = false) ∧ (∀ p, (State.reset.slot p).hvalid = false) ∧
  State.reset.obs = [] ∧ State.reset.totalPackets = 0 ∧ State.reset.totalCcErrors = 0 ∧ State.reset.status = 0x00

/-! ### The section-header commands -/

/-- R160 to R165: the answer of SECHDR_PARSE, and of the form SH.LONG, to a long-form header. -/
def Obligations.ParseAnswersALongHeader : Prop :=
  ∀ (pid16 : BitVec 16) (s0 s1 s2 s3 s4 s5 s6 s7 : Byte) (rest : List Byte) (s : State),
    pid16.toNat ≤ 0x1FFF → s1.getLsbD 7 = true →
    exec (.sechdrParse pid16 (s0 :: s1 :: s2 :: s3 :: s4 :: s5 :: s6 :: s7 :: rest)) s =
      .next { s with rsp := s.rsp ++ [⟨.ok, word16 pid16 ++
        [s0, 1, s1 &&& 0x0F, s2, s3, s4, (s5 >>> 1) &&& 0x1F, s5 &&& 1, s6, s7, 8]⟩] } ∧
    ∀ head : SecHead, exec (.shLong pid16 head (s3 :: s4 :: s5 :: s6 :: s7 :: rest)) s =
      .next { s with rsp := s.rsp ++ [⟨.ok, word16 pid16 ++
        ([head.tableId, 1] ++ word16 (head.sectionLength.setWidth 16) ++
          [s3, s4, (s5 >>> 1) &&& 0x1F, s5 &&& 1, s6, s7, 8])⟩] }

/-- R160 to R162, R165, R93: the answer of SECHDR_PARSE, and of the form SH.SHORT, to a short-form header; the long-form
fields are sent as 0. -/
def Obligations.ParseAnswersAShortHeader : Prop :=
  ∀ (pid16 : BitVec 16) (s0 s1 s2 : Byte) (rest : List Byte) (s : State),
    pid16.toNat ≤ 0x1FFF → s1.getLsbD 7 = false →
    exec (.sechdrParse pid16 (s0 :: s1 :: s2 :: rest)) s =
      .next { s with rsp := s.rsp ++ [⟨.ok, word16 pid16 ++
        [s0, 0, s1 &&& 0x0F, s2, 0, 0, 0, 0, 0, 0, 1]⟩] } ∧
    ∀ head : SecHead, exec (.shShort pid16 head rest) s =
      .next { s with rsp := s.rsp ++ [⟨.ok, word16 pid16 ++
        ([head.tableId, 0] ++ word16 (head.sectionLength.setWidth 16) ++ [0, 0, 0, 0, 0, 0, 1])⟩] }

/-- R161, R163: a section of fewer than three bytes, or one flagged long with fewer than eight, is `SectionTruncated` to
SECHDR_PARSE, to every selector of SECHDR_GET and to the form SH.LONG; nothing changes. -/
def Obligations.TooFewBytesIsSectionTruncated : Prop :=
  ∀ (pid16 : BitVec 16) (sec : List Byte) (s : State), pid16.toNat ≤ 0x1FFF →
    ((sec.length < 3 ∨ (sec.length < 8 ∧ ∃ s1, sec[1]? = some s1 ∧ s1.getLsbD 7 = true)) →
      ∀ i ∈ [Instr.sechdrParse pid16 sec, .sechdrGetTableId pid16 sec, .sechdrGetSyntaxIndicator pid16 sec,
          .sechdrGetSectionLength pid16 sec, .sechdrGetTableIdExtension pid16 sec, .sechdrGetVersionNumber pid16 sec,
          .sechdrGetCurrentNext pid16 sec, .sechdrGetSectionNumber pid16 sec, .sechdrGetLastSectionNumber pid16 sec,
          .sechdrGetBodyOffset pid16 sec],
        exec i s = .next { s with rsp := s.rsp ++ [⟨.sectionTruncated, []⟩] }) ∧
    ∀ (head : SecHead) (rest : List Byte), rest.length < 5 →
      exec (.shLong pid16 head rest) s = .next { s with rsp := s.rsp ++ [⟨.sectionTruncated, []⟩] }

/-- R171, R172, R173, R179: the selectors that exist in both forms, on a header that is all there. -/
def Obligations.GettersOfBothForms : Prop :=
  ∀ (pid16 : BitVec 16) (s0 s1 s2 : Byte) (rest : List Byte) (s : State), pid16.toNat ≤ 0x1FFF →
    (s1.getLsbD 7 = true → 5 ≤ rest.length) →
    exec (.sechdrGetTableId pid16 (s0 :: s1 :: s2 :: rest)) s =
      .next { s with rsp := s.rsp ++ [⟨.ok, [0, s0]⟩] } ∧
    exec (.sechdrGetSyntaxIndicator pid16 (s0 :: s1 :: s2 :: rest)) s =
      .next { s with rsp := s.rsp ++ [⟨.ok, [0, if s1.getLsbD 7 then 1 else 0]⟩] } ∧
    exec (.sechdrGetSectionLength pid16 (s0 :: s1 :: s2 :: rest)) s =
      .next { s with rsp := s.rsp ++ [⟨.ok, [s1 &&& 0x0F, s2]⟩] } ∧
    exec (.sechdrGetBodyOffset pid16 (s0 :: s1 :: s2 :: rest)) s =
      .next { s with rsp := s.rsp ++ [⟨.ok, [0, if s1.getLsbD 7 then 8 else 1]⟩] }

/-- R170, R174 to R178: the long-form-only selectors answer their field on a long-form header and `InvalidState` on a
short-form one; nothing else changes. That `table_id_extension` is big-endian is what the spec marks as general knowledge
(R50, G7; notes/assumptions/16.md). -/
def Obligations.GettersOfTheLongFormOnly : Prop :=
  ∀ (pid16 : BitVec 16) (s0 s1 s2 : Byte) (more : List Byte) (s : State), pid16.toNat ≤ 0x1FFF →
    let sec := s0 :: s1 :: s2 :: more
    (s1.getLsbD 7 = true → ∀ (s3 s4 s5 s6 s7 : Byte) (rest : List Byte),
      more = s3 :: s4 :: s5 :: s6 :: s7 :: rest →
      exec (.sechdrGetTableIdExtension pid16 sec) s = .next { s with rsp := s.rsp ++ [⟨.ok, [s3, s4]⟩] } ∧
      exec (.sechdrGetVersionNumber pid16 sec) s =
        .next { s with rsp := s.rsp ++ [⟨.ok, [0, (s5 >>> 1) &&& 0x1F]⟩] } ∧
      exec (.sechdrGetCurrentNext pid16 sec) s = .next { s with rsp := s.rsp ++ [⟨.ok, [0, s5 &&& 1]⟩] } ∧
      exec (.sechdrGetSectionNumber pid16 sec) s = .next { s with rsp := s.rsp ++ [⟨.ok, [0, s6]⟩] } ∧
      exec (.sechdrGetLastSectionNumber pid16 sec) s = .next { s with rsp := s.rsp ++ [⟨.ok, [0, s7]⟩] }) ∧
    (s1.getLsbD 7 = false →
      ∀ i ∈ [Instr.sechdrGetTableIdExtension pid16 sec, .sechdrGetVersionNumber pid16 sec,
          .sechdrGetCurrentNext pid16 sec, .sechdrGetSectionNumber pid16 sec, .sechdrGetLastSectionNumber pid16 sec],
        exec i s = .next { s with rsp := s.rsp ++ [⟨.invalidState, []⟩] })

/-! ### The framer -/

/-- R101, R102, R112: a bad sync byte is `BadSync` whatever else holds; with good sync, a set error bit is
`TransportError`; past both, the only error left is `OffsetOutOfRange`. -/
def Obligations.FrameErrorsInOrder : Prop :=
  ∀ (b0 b1 : Byte) (more : Bytes 186) (p : Bytes 188), p.data = b0 :: b1 :: more.data →
    (b0 ≠ 0x47 → frame p = .error .badSync) ∧
    (b0 = 0x47 → b1.getLsbD 7 = true → frame p = .error .transportError) ∧
    (b0 = 0x47 → b1.getLsbD 7 = false → frame p = .error .offsetOutOfRange ∨ ∃ f, frame p = .ok f)

/-- R113: exactly when framing succeeds. -/
def Obligations.FrameSucceedsExactlyWhen : Prop :=
  ∀ (b0 b1 b2 b3 b4 : Byte) (more : Bytes 183) (p : Bytes 188), p.data = b0 :: b1 :: b2 :: b3 :: b4 :: more.data →
    let off := if b3.getLsbD 5 then 5 + b4.toNat else 4
    ((∃ f, frame p = .ok f) ↔
      b0 = 0x47 ∧ b1.getLsbD 7 = false ∧ (b3.getLsbD 5 = true → b4.toNat ≤ 183) ∧
        (b1.getLsbD 6 = true → off ≤ 187 ∧ ∀ ptr, p.data[off]? = some ptr → ptr.toNat ≤ 187 - off))

/-- R103, R104, R105: the fields of the record, as the formulas of the rules give them. -/
def Obligations.FrameReadsTheHeaderFields : Prop :=
  ∀ (b0 b1 b2 b3 : Byte) (more : Bytes 184) (p : Bytes 188) (f : Framed), p.data = b0 :: b1 :: b2 :: b3 :: more.data →
    frame p = .ok f →
    f.pid.toNat = (b1.toNat % 32) * 256 + b2.toNat ∧ (f.pusi = true ↔ b1.toNat / 64 % 2 = 1) ∧
      f.tsc.toNat = b3.toNat / 64 ∧ f.afc.toNat = b3.toNat / 16 % 4 ∧ f.cc.toNat = b3.toNat % 16

/-- R106, R110, R115: the slices of the record, and their lengths. -/
def Obligations.FrameSlicesThePayload : Prop :=
  ∀ (b0 b1 b2 b3 b4 : Byte) (more : Bytes 183) (p : Bytes 188) (f : Framed),
    p.data = b0 :: b1 :: b2 :: b3 :: b4 :: more.data → frame p = .ok f →
    let off := if b3.getLsbD 5 then 5 + b4.toNat else 4
    (f.pusi = false → f.trailing = none ∧ f.main = p.data.drop off ∧ f.main.length + off = 188) ∧
    (f.pusi = true → ∃ ptr : Byte, p.data[off]? = some ptr ∧
      f.main = p.data.drop (off + 1 + ptr.toNat) ∧
      (ptr = 0 → f.trailing = none) ∧
      (ptr ≠ 0 → ∃ tail, f.trailing = some tail ∧ tail = (p.data.drop (off + 1)).take ptr.toNat ∧
        tail.length = ptr.toNat) ∧
      f.main.length + off + 1 + ptr.toNat = 188)

/-! ### ACCEPT -/

/-- R141: a packet the framer rejects is answered with the framer's error and changes nothing. -/
def Obligations.RejectedPacketChangesNothing : Prop :=
  ∀ (p : Bytes 188) (e : Status) (s : State), frame p = .error e → s.fatal = false →
    exec (.accept p) s = .next { s with rsp := s.rsp ++ [⟨e, []⟩] }

/-- R143: a null packet is counted and has no further effect. -/
def Obligations.NullPacketIsOnlyCounted : Prop :=
  ∀ (p : Bytes 188) (f : Framed) (s : State), frame p = .ok f → f.pid = 0x1FFF → s.fatal = false →
    exec (.accept p) s = .next { s with
      totalPackets := (s.totalPackets + 1) % 2 ^ s.params.cntW.val, rsp := s.rsp ++ [⟨.ok, []⟩] }

/-- R121: a packet without unit-start on an awaiting accumulator is counted, its PID is seen, and that is all. -/
def Obligations.AwaitingIgnoresAPacketWithoutUnitStart : Prop :=
  ∀ (p : Bytes 188) (f : Framed) (s : State), frame p = .ok f → f.pid ≠ 0x1FFF → s.fatal = false →
    (s.accum f.pid.toNat).state = .awaitingStart → (s.accum f.pid.toNat).buf = [] → f.pusi = false →
    ∃ t, exec (.accept p) s = .next t ∧ t.seenBit f.pid.toNat = true ∧
      (∀ q, q ≠ f.pid.toNat → t.seenBit q = s.seenBit q) ∧
      t = { s with totalPackets := (s.totalPackets + 1) % 2 ^ s.params.cntW.val, seen := t.seen,
                   rsp := s.rsp ++ [⟨.ok, []⟩] }

/-- R122, R123: a unit-start packet on an awaiting accumulator starts a section with its main payload; its tail is
dropped. The counters R122 writes as 1 and the length are taken modulo 2^CNT_W, which the model deduces from their width
(notes/assumptions/3.md). -/
def Obligations.UnitStartStartsASection : Prop :=
  ∀ (p : Bytes 188) (f : Framed) (s : State), frame p = .ok f → f.pid ≠ 0x1FFF → s.fatal = false →
    (s.accum f.pid.toNat).state = .awaitingStart → (s.accum f.pid.toNat).buf = [] → f.pusi = true →
    (∀ m, s.params.sectionBufMax = some m → f.main.length ≤ m) →
    ∃ t, exec (.accept p) s = .next t ∧
      t.accum f.pid.toNat = { state := .accumulating f.cc, buf := f.main, pkts := 1 % 2 ^ s.params.cntW.val,
                              bytes := f.main.length % 2 ^ s.params.cntW.val } ∧
      t.seenBit f.pid.toNat = true ∧
      (∀ q, q ≠ f.pid.toNat → t.accum q = s.accum q ∧ t.seenBit q = s.seenBit q ∧
        ∀ i, t.bufByte q i = s.bufByte q i) ∧
      t = { s with totalPackets := (s.totalPackets + 1) % 2 ^ s.params.cntW.val, seen := t.seen, acc := t.acc,
                   rsp := s.rsp ++ [⟨.ok, []⟩] }

/-- R125: a packet with the right counter and no unit-start is appended; no byte already in a buffer changes. -/
def Obligations.InOrderPacketIsAppended : Prop :=
  ∀ (p : Bytes 188) (f : Framed) (prev : BitVec 4) (s : State), frame p = .ok f → f.pid ≠ 0x1FFF →
    s.fatal = false → (s.accum f.pid.toNat).state = .accumulating prev → f.cc.toNat = (prev.toNat + 1) % 16 →
    f.pusi = false →
    (∀ m, s.params.sectionBufMax = some m → (s.accum f.pid.toNat).buf.length + f.main.length ≤ m) →
    ∃ t, exec (.accept p) s = .next t ∧
      t.accum f.pid.toNat =
        { state := .accumulating f.cc, buf := (s.accum f.pid.toNat).buf ++ f.main,
          pkts := ((s.accum f.pid.toNat).pkts + 1) % 2 ^ s.params.cntW.val,
          bytes := ((s.accum f.pid.toNat).bytes + f.main.length) % 2 ^ s.params.cntW.val } ∧
      (∀ i, i < (s.accum f.pid.toNat).buf.length → t.bufByte f.pid.toNat i = s.bufByte f.pid.toNat i) ∧
      t.seenBit f.pid.toNat = true ∧
      (∀ q, q ≠ f.pid.toNat → t.accum q = s.accum q ∧ t.seenBit q = s.seenBit q ∧
        ∀ i, t.bufByte q i = s.bufByte q i) ∧
      t = { s with totalPackets := (s.totalPackets + 1) % 2 ^ s.params.cntW.val, seen := t.seen, acc := t.acc,
                   rsp := s.rsp ++ [⟨.ok, []⟩] }

/-- R126, R146, R148: a unit-start packet with the right counter completes the section in progress, whose bytes and the
packet's tail go to every observer in order and then to the PID's handler, and starts the next one. The new section's
counters are taken modulo 2^CNT_W, which the model deduces from their width (notes/assumptions/3.md). -/
def Obligations.InOrderUnitStartCompletesTheSection : Prop :=
  ∀ (p : Bytes 188) (f : Framed) (prev : BitVec 4) (s : State), frame p = .ok f → f.pid ≠ 0x1FFF →
    s.fatal = false → (s.accum f.pid.toNat).state = .accumulating prev → f.cc.toNat = (prev.toNat + 1) % 16 →
    f.pusi = true → (∀ m, s.params.sectionBufMax = some m → f.main.length ≤ m) →
    let event := Event.sectionComplete ((s.accum f.pid.toNat).buf ++ f.trailing.getD [])
    ∃ t, exec (.accept p) s = .next t ∧
      t.accum f.pid.toNat = { state := .accumulating f.cc, buf := f.main, pkts := 1 % 2 ^ s.params.cntW.val,
                              bytes := f.main.length % 2 ^ s.params.cntW.val } ∧
      t.evt = s.evt ++ s.obs.map (fun o => ⟨.globalObserver, o, f.pid, event⟩) ++
        (if (s.slot f.pid.toNat).hvalid then [⟨.pidHandler, (s.slot f.pid.toNat).hid, f.pid, event⟩] else []) ∧
      t.seenBit f.pid.toNat = true ∧
      (∀ q, q ≠ f.pid.toNat → t.accum q = s.accum q ∧ t.seenBit q = s.seenBit q ∧
        ∀ i, t.bufByte q i = s.bufByte q i) ∧
      t = { s with totalPackets := (s.totalPackets + 1) % 2 ^ s.params.cntW.val, seen := t.seen, acc := t.acc,
                   evt := t.evt, rsp := s.rsp ++ [⟨.ok, []⟩] }

/-- R124, R149: a packet with a wrong counter is counted as an error, reported with the three counters, and discards the
section in progress; it starts a new one if it has unit-start and is ignored if it has not. The report goes to every
observer and then to the handler, or under `broadcast_only` to the identifier 0xFFFF alone. The new section's counters are
taken modulo 2^CNT_W, which the model deduces from their width (notes/assumptions/3.md). A new section past the bound is
ReofferPastTheBoundKeepsTheRecords. -/
def Obligations.WrongCounterDiscardsAndReports : Prop :=
  ∀ (p : Bytes 188) (f : Framed) (prev : BitVec 4) (s : State), frame p = .ok f → f.pid ≠ 0x1FFF →
    s.fatal = false → (s.accum f.pid.toNat).state = .accumulating prev → f.cc.toNat ≠ (prev.toNat + 1) % 16 →
    (f.pusi = true → ∀ m, s.params.sectionBufMax = some m → f.main.length ≤ m) →
    let event := Event.continuityError prev (BitVec.ofNat 4 ((prev.toNat + 1) % 16)) f.cc
    ∃ t, exec (.accept p) s = .next t ∧
      t.accum f.pid.toNat =
        (if f.pusi then { state := .accumulating f.cc, buf := f.main, pkts := 1 % 2 ^ s.params.cntW.val,
                          bytes := f.main.length % 2 ^ s.params.cntW.val }
         else { state := .awaitingStart, buf := [], pkts := 0, bytes := 0 }) ∧
      (s.params.ccErrRouting = .asSections → t.evt = s.evt ++
        s.obs.map (fun o => ⟨.globalObserver, o, f.pid, event⟩) ++
        (if (s.slot f.pid.toNat).hvalid then [⟨.pidHandler, (s.slot f.pid.toNat).hid, f.pid, event⟩] else [])) ∧
      (s.params.ccErrRouting = .broadcastOnly → t.evt = s.evt ++ [⟨.globalObserver, 0xFFFF, f.pid, event⟩]) ∧
      t.seenBit f.pid.toNat = true ∧
      (∀ q, q ≠ f.pid.toNat → t.accum q = s.accum q ∧ t.seenBit q = s.seenBit q ∧
        ∀ i, t.bufByte q i = s.bufByte q i) ∧
      t = { s with totalPackets := (s.totalPackets + 1) % 2 ^ s.params.cntW.val,
                   totalCcErrors := (s.totalCcErrors + 1) % 2 ^ s.params.cntW.val,
                   seen := t.seen, acc := t.acc, evt := t.evt, rsp := s.rsp ++ [⟨.ok, []⟩] }

/-- R133, R228: an append that would pass `SECTION_BUF_MAX` sets `STATUS.FATAL` and `CAUSE` 2 and answers `Fatal`; the
packet's count stands and no part of the append is done. -/
def Obligations.AppendPastTheBoundIsFatal : Prop :=
  ∀ (p : Bytes 188) (f : Framed) (prev : BitVec 4) (m : Nat) (s : State), frame p = .ok f → f.pid ≠ 0x1FFF →
    s.fatal = false → (s.accum f.pid.toNat).state = .accumulating prev → f.cc.toNat = (prev.toNat + 1) % 16 →
    f.pusi = false → s.params.sectionBufMax = some m → m < (s.accum f.pid.toNat).buf.length + f.main.length →
    ∃ t, exec (.accept p) s = .next t ∧ t.fatal = true ∧ t.cause = 2 ∧
      t.status &&& 0xF8 = s.status &&& 0xF8 ∧ t.seenBit f.pid.toNat = true ∧
      (∀ q, q ≠ f.pid.toNat → t.seenBit q = s.seenBit q) ∧
      t = { s with totalPackets := (s.totalPackets + 1) % 2 ^ s.params.cntW.val, seen := t.seen,
                   status := t.status, rsp := s.rsp ++ [⟨.fatal, []⟩] }

/-- R133: a unit-start packet whose section start would pass the bound, on an awaiting accumulator, is fatal; the packet's
count and the PID's seen bit stand, no part of the start is done. -/
def Obligations.AwaitingStartPastTheBoundIsFatal : Prop :=
  ∀ (p : Bytes 188) (f : Framed) (m : Nat) (s : State), frame p = .ok f → f.pid ≠ 0x1FFF → s.fatal = false →
    (s.accum f.pid.toNat).state = .awaitingStart → (s.accum f.pid.toNat).buf = [] → f.pusi = true →
    s.params.sectionBufMax = some m → m < f.main.length →
    ∃ t, exec (.accept p) s = .next t ∧ t.fatal = true ∧ t.cause = 2 ∧
      t.status &&& 0xF8 = s.status &&& 0xF8 ∧ t.seenBit f.pid.toNat = true ∧
      (∀ q, q ≠ f.pid.toNat → t.seenBit q = s.seenBit q) ∧
      t = { s with totalPackets := (s.totalPackets + 1) % 2 ^ s.params.cntW.val, seen := t.seen,
                   status := t.status, rsp := s.rsp ++ [⟨.fatal, []⟩] }

/-- R124, R126, R133, R230: a section start that would pass the bound, reached by re-offer after a completion or after a
wrong counter, is fatal too; the records of the completed section or of the continuity error, the count of the error and
the clearing of the accumulator stand. -/
def Obligations.ReofferPastTheBoundKeepsTheRecords : Prop :=
  ∀ (p : Bytes 188) (f : Framed) (prev : BitVec 4) (m : Nat) (s : State), frame p = .ok f → f.pid ≠ 0x1FFF →
    s.fatal = false → (s.accum f.pid.toNat).state = .accumulating prev → f.pusi = true →
    s.params.sectionBufMax = some m → m < f.main.length →
    let section_ := Event.sectionComplete ((s.accum f.pid.toNat).buf ++ f.trailing.getD [])
    let error := Event.continuityError prev (BitVec.ofNat 4 ((prev.toNat + 1) % 16)) f.cc
    let throughTables (e : Event) : List EvtRecord := s.obs.map (fun o => ⟨.globalObserver, o, f.pid, e⟩) ++
      (if (s.slot f.pid.toNat).hvalid then [⟨.pidHandler, (s.slot f.pid.toNat).hid, f.pid, e⟩] else [])
    ∃ t, exec (.accept p) s = .next t ∧ t.fatal = true ∧ t.cause = 2 ∧
      t.status &&& 0xF8 = s.status &&& 0xF8 ∧
      t.accum f.pid.toNat = { state := .awaitingStart, buf := [], pkts := 0, bytes := 0 } ∧
      (f.cc.toNat = (prev.toNat + 1) % 16 →
        t.evt = s.evt ++ throughTables section_ ∧ t.totalCcErrors = s.totalCcErrors) ∧
      (f.cc.toNat ≠ (prev.toNat + 1) % 16 →
        (s.params.ccErrRouting = .asSections → t.evt = s.evt ++ throughTables error) ∧
        (s.params.ccErrRouting = .broadcastOnly → t.evt = s.evt ++ [⟨.globalObserver, 0xFFFF, f.pid, error⟩]) ∧
        t.totalCcErrors = (s.totalCcErrors + 1) % 2 ^ s.params.cntW.val) ∧
      t.seenBit f.pid.toNat = true ∧
      (∀ q, q ≠ f.pid.toNat → t.accum q = s.accum q ∧ t.seenBit q = s.seenBit q ∧
        ∀ i, t.bufByte q i = s.bufByte q i) ∧
      t = { s with totalPackets := (s.totalPackets + 1) % 2 ^ s.params.cntW.val, totalCcErrors := t.totalCcErrors,
                   seen := t.seen, acc := t.acc, status := t.status, evt := t.evt, rsp := s.rsp ++ [⟨.fatal, []⟩] }

/-- R132: the AwaitingStart handling of a non-empty buffer sets `CAUSE` 1, leaves the accumulator as it is and answers
`Fatal`; the packet's count and the PID's seen bit stand. -/
def Obligations.NonEmptyBufferInAwaitingIsFatal : Prop :=
  ∀ (p : Bytes 188) (f : Framed) (s : State), frame p = .ok f → f.pid ≠ 0x1FFF → s.fatal = false →
    (s.accum f.pid.toNat).state = .awaitingStart → (s.accum f.pid.toNat).buf ≠ [] →
    ∃ t, exec (.accept p) s = .next t ∧ t.fatal = true ∧ t.cause = 1 ∧
      t.status &&& 0xF8 = s.status &&& 0xF8 ∧ t.seenBit f.pid.toNat = true ∧
      (∀ q, q ≠ f.pid.toNat → t.seenBit q = s.seenBit q) ∧
      t = { s with totalPackets := (s.totalPackets + 1) % 2 ^ s.params.cntW.val, seen := t.seen,
                   status := t.status, rsp := s.rsp ++ [⟨.fatal, []⟩] }

/-- R228, R229: in the fatal state ACCEPT (whatever its packet), REGISTER_HANDLER, UNREGISTER_HANDLER and ADD_OBSERVER
answer `Fatal` and do nothing. -/
def Obligations.FatalStateRefusesTheFourCommands : Prop :=
  ∀ (p : Bytes 188) (low7 : BitVec 7) (rest : Bytes 186) (h : TsHeader) (body : Bytes 184)
    (pid16 h16 o16 : BitVec 16) (s : State), s.fatal = true → pid16.toNat ≤ 0x1FFF →
    ∀ i ∈ [Instr.accept p, .tsTei low7 rest, .tsP h body, .tsAp h body, .tsSp h body, .tsAsp h body, .tsBadsync p,
        .registerHandler pid16 h16, .unregisterHandler pid16, .addObserver o16],
      exec i s = .next { s with rsp := s.rsp ++ [⟨.fatal, []⟩] }

/-! ### The packet forms -/

/-- R83, R125: a packet of form TS.P, in order on an accumulating PID, appends bytes 4 to 187; one of form TS.AP whose
field of length `len` fits appends what follows the field. -/
def Obligations.FormsWithoutUnitStartAppend : Prop :=
  ∀ (h : TsHeader) (b4 : Byte) (more : Bytes 183) (body : Bytes 184) (prev : BitVec 4) (s : State),
    body.data = b4 :: more.data → h.pid ≠ 0x1FFF → s.fatal = false → s.params.sectionBufMax = none →
    (s.accum h.pid.toNat).state = .accumulating prev → h.cc.toNat = (prev.toNat + 1) % 16 →
    ∀ i main, (i = Instr.tsP h body ∧ main = body.data) ∨
        (i = Instr.tsAp h body ∧ b4.toNat ≤ 183 ∧ main = more.data.drop b4.toNat) →
    ∃ t, exec i s = .next t ∧
      t.accum h.pid.toNat =
        { state := .accumulating h.cc, buf := (s.accum h.pid.toNat).buf ++ main,
          pkts := ((s.accum h.pid.toNat).pkts + 1) % 2 ^ s.params.cntW.val,
          bytes := ((s.accum h.pid.toNat).bytes + main.length) % 2 ^ s.params.cntW.val } ∧
      t.seenBit h.pid.toNat = true ∧
      (∀ q, q ≠ h.pid.toNat → t.accum q = s.accum q ∧ t.seenBit q = s.seenBit q ∧
        ∀ k, t.bufByte q k = s.bufByte q k) ∧
      t = { s with totalPackets := (s.totalPackets + 1) % 2 ^ s.params.cntW.val, seen := t.seen, acc := t.acc,
                   rsp := s.rsp ++ [⟨.ok, []⟩] }

/-- R83, R85, R122: a packet of form TS.SP whose pointer fits, on an awaiting PID, starts a section with what follows the
tail; one of form TS.ASP likewise, the pointer byte following the field. The counters R122 writes as 1 and the length are
taken modulo 2^CNT_W, which the model deduces from their width (notes/assumptions/3.md). -/
def Obligations.FormsWithUnitStartStart : Prop :=
  ∀ (h : TsHeader) (len ptr : Byte) (field after : List Byte) (body : Bytes 184) (s : State),
    h.pid ≠ 0x1FFF → s.fatal = false → s.params.sectionBufMax = none →
    (s.accum h.pid.toNat).state = .awaitingStart → (s.accum h.pid.toNat).buf = [] → ptr.toNat ≤ after.length →
    ∀ i, (i = Instr.tsSp h body ∧ body.data = ptr :: after) ∨
        (i = Instr.tsAsp h body ∧ body.data = len :: (field ++ ptr :: after) ∧ field.length = len.toNat) →
    ∃ t, exec i s = .next t ∧
      t.accum h.pid.toNat =
        { state := .accumulating h.cc, buf := after.drop ptr.toNat, pkts := 1 % 2 ^ s.params.cntW.val,
          bytes := (after.length - ptr.toNat) % 2 ^ s.params.cntW.val } ∧
      t.seenBit h.pid.toNat = true ∧
      (∀ q, q ≠ h.pid.toNat → t.accum q = s.accum q ∧ t.seenBit q = s.seenBit q ∧
        ∀ k, t.bufByte q k = s.bufByte q k) ∧
      t = { s with totalPackets := (s.totalPackets + 1) % 2 ^ s.params.cntW.val, seen := t.seen, acc := t.acc,
                   rsp := s.rsp ++ [⟨.ok, []⟩] }

/-- R83, R101, R102, R107 to R109: what each illegal packet form is answered, with no other effect: TS.TEI
`TransportError`, TS.BADSYNC `BadSync`, and a form whose lengths do not fit `OffsetOutOfRange`. -/
def Obligations.IllegalPacketsAreRejected : Prop :=
  ∀ (low7 : BitVec 7) (rest : Bytes 186) (bad : Bytes 188) (h : TsHeader) (b4 : Byte) (more : Bytes 183)
    (body : Bytes 184) (s : State), s.fatal = false → body.data = b4 :: more.data →
    exec (.tsTei low7 rest) s = .next { s with rsp := s.rsp ++ [⟨.transportError, []⟩] } ∧
    exec (.tsBadsync bad) s = .next { s with rsp := s.rsp ++ [⟨.badSync, []⟩] } ∧
    (183 < b4.toNat →
      exec (.tsAp h body) s = .next { s with rsp := s.rsp ++ [⟨.offsetOutOfRange, []⟩] } ∧
      exec (.tsSp h body) s = .next { s with rsp := s.rsp ++ [⟨.offsetOutOfRange, []⟩] }) ∧
    ((182 < b4.toNat ∨ ∃ ptr, more.data[b4.toNat]? = some ptr ∧ 182 < b4.toNat + ptr.toNat) →
      exec (.tsAsp h body) s = .next { s with rsp := s.rsp ++ [⟨.offsetOutOfRange, []⟩] })

/-! ### The whole machine -/

/-- Every step keeps the PID-indexed files in canonical form. Files as sparse lists, and their canonical form, are the model's
representation (notes/assumptions/5.md); the spec says only what the entries are. -/
def Obligations.StepKeepsFilesCanonical : Prop :=
  ∀ s t : State, s.filesCanonical → step s = .next t → t.filesCanonical

/-- R29: every step keeps the invariant of every accumulator, its clause `pkts >= 1` in the model's reading: a counter is
`CNT_W` bits wide (`Accum.ok`), and an accumulating accumulator keeps a count of at least 1 as long as no count is at its
last value before the step, the counters being taken modulo 2^CNT_W (notes/assumptions/3.md). -/
def Obligations.StepKeepsTheAccumulatorInvariant : Prop :=
  (∀ s t : State, s.accumsOk → step s = .next t → t.accumsOk) ∧
  ∀ s t : State, 1 ≤ s.params.cntW.val → (∀ p, (s.accum p).pkts + 1 < 2 ^ s.params.cntW.val) → s.pktsPositive →
    step s = .next t → t.pktsPositive

/-- R22, R28: every step leaves entry 0x1FFF of the accumulator file as reset leaves it, `seen[0x1FFF]` 0, nothing outside
the PID space, and a created accumulator seen. -/
def Obligations.StepKeepsTheNullPidUntouched : Prop :=
  ∀ s t : State, s.nullPidUntouched → s.pidsInRange → s.seenCovers → step s = .next t →
    t.nullPidUntouched ∧ t.pidsInRange ∧ t.seenCovers

/-- R35: every step keeps `STATUS` one of its legal values. -/
def Obligations.StepKeepsStatusLegal : Prop :=
  ∀ s t : State, s.statusLegal → step s = .next t → t.statusLegal

/-- R30 to R34: every step keeps the counters within `CNT_W` bits, the identifiers of observers and handlers within `ID_W`
bits and the observer list within `N_OBS_MAX`, and no step changes the parameters. -/
def Obligations.StepKeepsSizesAndParameters : Prop :=
  ∀ s t : State, step s = .next t → t.params = s.params ∧ (s.sizesFit → t.sizesFit)

/-- R228, R132: with an unbounded section buffer no step reaches the fatal state, whatever is on CMD: from a state with no
fault and the invariant of R29, every step answers such a state again. -/
def Obligations.UnboundedBufferNeverFatal : Prop :=
  ∀ s : State, s.params.sectionBufMax = none → s.noFault → s.accumsOk →
    ∃ t, step s = .next t ∧ t.params.sectionBufMax = none ∧ t.noFault ∧ t.accumsOk

/-- The reset state meets every invariant above. -/
def Obligations.ResetMeetsTheInvariants : Prop :=
  State.reset.filesCanonical ∧ State.reset.accumsOk ∧ State.reset.pktsPositive ∧ State.reset.nullPidUntouched ∧
    State.reset.pidsInRange ∧ State.reset.seenCovers ∧ State.reset.statusLegal ∧ State.reset.sizesFit ∧ State.reset.noFault ∧
    State.reset.params.sectionBufMax = none

/-- R226: exceptions are precise. A step that answers any status but `OK` and `Fatal`, or `Fatal` because `FATAL` was
already set, has written no register and put nothing on EVT. -/
def Obligations.ExceptionsArePrecise : Prop :=
  ∀ (s t : State) (r : Response), step s = .next t → t.rsp = s.rsp ++ [r] → r.status ≠ .ok →
    (r.status = .fatal → s.fatal = true) →
    s.sameRegisters t ∧ t.evt = s.evt ∧ t.params = s.params ∧ r.data = []

/-- R36, R228: while `FATAL` is set no step but a RESET's changes a register or puts anything on EVT; `FATAL` and the cause
recorded with it stay. -/
def Obligations.FatalIsStickyUntilReset : Prop :=
  ∀ (s t : State), s.fatal = true → step s = .next t → (∀ rest, decode s.cmd ≠ .instr .reset rest) →
    s.sameRegisters t ∧ t.fatal = true ∧ t.cause = s.cause ∧ t.evt = s.evt

/-- R22, R137: an instruction changes the accumulator of a PID only if it is RESET or the ACCEPT of a packet of that PID;
in particular packets of other PIDs, null packets and rejected packets leave it alone. -/
def Obligations.OnlyItsOwnPacketsChangeAnAccumulator : Prop :=
  ∀ (i : Instr) (p : Nat) (s t : State), i.wellFormed = true → exec i s = .next t → i ≠ .reset →
    (∀ pkt f, i.command = .accept pkt → frame pkt = .ok f → f.pid.toNat = p → f.pid = 0x1FFF) →
    t.accum p = s.accum p ∧ t.seenBit p = s.seenBit p ∧ ∀ k, t.bufByte p k = s.bufByte p k

/-- R142: TOTAL_PACKETS counts exactly the packets the framer accepts (outside the fatal state); no other command but
RESET changes it. -/
def Obligations.TotalPacketsCountsFramedPackets : Prop :=
  ∀ (i : Instr) (s t : State), i.wellFormed = true → exec i s = .next t → i ≠ .reset →
    (∀ pkt f, i.command = .accept pkt → frame pkt = .ok f → s.fatal = false →
      t.totalPackets = (s.totalPackets + 1) % 2 ^ s.params.cntW.val) ∧
    ((∀ pkt f, i.command = .accept pkt → frame pkt ≠ .ok f) ∨ s.fatal = true →
      t.totalPackets = s.totalPackets)

/-- R142, R33: after a stream of packets that all frame, TOTAL_PACKETS has grown by their number, if no buffer is
bounded. -/
def Obligations.StreamOfFramedPacketsIsCounted : Prop :=
  ∀ (ps : List (Bytes 188)) (s : State), s.params.sectionBufMax = none → s.noFault → s.accumsOk → s.sizesFit →
    (∀ p ∈ ps, ∃ f, frame p = .ok f) →
    ∃ t, acceptAll ps s = some t ∧ t.totalPackets = (s.totalPackets + ps.length) % 2 ^ s.params.cntW.val

/-- R134, R148: a step puts on EVT nothing, or the records of one event: one for each observer and one for the handler of
the event's PID if there is one (one alone for a broadcast continuity error). -/
def Obligations.AtMostOneEventPerStep : Prop :=
  ∀ s t : State, step s = .next t →
    t.evt = s.evt ∨ ∃ p e, t.evt = s.evt ++ dispatchRecords s p e ∧
      ((s.params.ccErrRouting = .asSections ∨ ∃ bytes, e = .sectionComplete bytes) →
        (dispatchRecords s p e).length = s.obs.length + (if (s.slot p.toNat).hvalid then 1 else 0))

/-- R129: in every continuity error a step reports, the expected counter is the previous one plus 1 modulo 16 and the
actual one is another. -/
def Obligations.ReportedCountersAreConsistent : Prop :=
  ∀ (s t : State) (r : EvtRecord) (prev expected actual : BitVec 4), step s = .next t →
    r ∈ t.evt.drop s.evt.length → r.event = .continuityError prev expected actual →
    expected.toNat = (prev.toNat + 1) % 16 ∧ actual ≠ expected

/-- R57, R130: an ACCEPT is not idempotent: the same packet presented again, when the first time left its PID
accumulating, is counted each time and is a continuity error the second. -/
def Obligations.RepeatedPacketIsAContinuityError : Prop :=
  ∀ (p : Bytes 188) (f : Framed) (prev : BitVec 4) (s t : State), frame p = .ok f → f.pid ≠ 0x1FFF →
    s.params.sectionBufMax = none → s.noFault → exec (.accept p) s = .next t →
    (t.accum f.pid.toNat).state = .accumulating prev →
    t.totalPackets = (s.totalPackets + 1) % 2 ^ s.params.cntW.val ∧
    ∃ u, exec (.accept p) t = .next u ∧
      u.totalPackets = (t.totalPackets + 1) % 2 ^ s.params.cntW.val ∧
      u.totalCcErrors = (t.totalCcErrors + 1) % 2 ^ s.params.cntW.val ∧
      u.evt = t.evt ++ dispatchRecords t f.pid (.continuityError f.cc (f.cc + 1) f.cc)

/-- R57: READ_CSR, READ_ACC, SECHDR_PARSE and SECHDR_GET change no state but to answer, in every state. -/
def Obligations.ReadsHaveNoSideEffect : Prop :=
  ∀ (n8 sel8 : Byte) (pid16 : BitVec 16) (sec : List Byte) (s : State),
    ∀ i ∈ [Instr.readCsr n8, .readAcc pid16 sel8, .sechdrParse pid16 sec,
        .sechdrGetTableId pid16 sec, .sechdrGetSyntaxIndicator pid16 sec, .sechdrGetSectionLength pid16 sec,
        .sechdrGetTableIdExtension pid16 sec, .sechdrGetVersionNumber pid16 sec, .sechdrGetCurrentNext pid16 sec,
        .sechdrGetSectionNumber pid16 sec, .sechdrGetLastSectionNumber pid16 sec, .sechdrGetBodyOffset pid16 sec],
      ∃ r, exec i s = .next { s with rsp := s.rsp ++ [r] }

/-- R39, R238: the block never reads an output back, and a failure report has no effect but its LOG entry: from states
that differ only in what RSP, EVT and LOG hold and in the failure reports, a step gives states that differ only there,
with the same responses and records added. That the entry of every failure report is written within the one step is the
model's choice, the rules not saying when (notes/assumptions/10.md). -/
def Obligations.OutputsAndFailuresAreNeverReadBack : Prop :=
  ∀ (s t : State) (rsp : List Response) (evt : List EvtRecord) (log : List LogEntry) (failures : List FailureReport),
    step s = .next t →
    step { s with rsp := rsp, evt := evt, log := log, evtFailures := failures } =
      .next { t with rsp := rsp ++ t.rsp.drop s.rsp.length, evt := evt ++ t.evt.drop s.evt.length,
                     log := log ++ failures.map logEntryOf, evtFailures := [] }

/-- R28: no rule's outcome depends on `seen`: a step from the same state with other `seen` bits differs in those bits
alone. -/
def Obligations.SeenIsUnobservable : Prop :=
  ∀ (s t : State) (seen : List (Nat × Bool)), step s = .next t →
    ∃ seen', step { s with seen := seen } = .next { t with seen := seen' }

/-- R136, R126, R127: reassembly. A unit-start packet on an awaiting PID, any number of packets without unit-start with
the counter stepping by 1 modulo 16, and a unit-start packet with the next counter: the section delivered, through the
tables, is the concatenation of the main payloads and the last packet's tail, and there is no continuity error. -/
def Obligations.InOrderPacketsReassemble : Prop :=
  ∀ (first last : Bytes 188) (middle : List (Bytes 188)) (f l : Framed) (ms : List Framed) (s : State),
    s.params.sectionBufMax = none → s.noFault → f.pid ≠ 0x1FFF →
    s.accum f.pid.toNat = Accum.idle → frame first = .ok f → f.pusi = true → frame last = .ok l → l.pusi = true →
    l.pid = f.pid → l.cc.toNat = (f.cc.toNat + ms.length + 1) % 16 → middle.length = ms.length →
    (∀ k m p, ms[k]? = some m → middle[k]? = some p → frame p = .ok m ∧ m.pusi = false ∧ m.pid = f.pid ∧
      m.cc.toNat = (f.cc.toNat + k + 1) % 16) →
    ∃ t, acceptAll (first :: (middle ++ [last])) s = some t ∧ t.totalCcErrors = s.totalCcErrors ∧
      t.evt = s.evt ++ tableRecords s f.pid
        (.sectionComplete (f.main ++ (ms.map Framed.main).flatten ++ l.trailing.getD [])) ∧
      (t.accum f.pid.toNat).buf = l.main ∧ (t.accum f.pid.toNat).state = .accumulating l.cc
end

