-- ==== Sys2Proof/Laws/Decode.lean ====
section
/-!
SUPPORT. Small laws of the byte and field operations of Sys2Proof/Decode.lean: a field assembled is the field taken out,
both ways round.
-/

namespace Sys2Proof

/-! ### Halves of a bit vector -/

theorem extract_hi {w v : Nat} (x : BitVec w) (y : BitVec v) : (x ++ y).extractLsb' v w = x := by
  ext i h; simp [BitVec.getLsbD_append, show ¬ v + i < v by omega, h]

theorem extract_lo {w v : Nat} (x : BitVec w) (y : BitVec v) : (x ++ y).extractLsb' 0 v = y := by
  ext i h; simp [BitVec.getLsbD_append, h]

theorem append_extract {w v : Nat} (x : BitVec (w + v)) : x.extractLsb' v w ++ x.extractLsb' 0 v = x := by
  ext i h
  simp only [BitVec.getElem_append, BitVec.getElem_extractLsb']
  split
  · simp; rw [BitVec.getLsbD_eq_getElem]
  · rw [show v + (i - v) = i by omega, BitVec.getLsbD_eq_getElem]

/-! ### Multi-byte fields -/

theorem word16_eq (v : BitVec 16) : word16 v = [v.extractLsb' 8 8, v.extractLsb' 0 8] := rfl

/-- A 16-bit operand written big-endian is read back. -/
@[simp] theorem be16_extract (v : BitVec 16) : be16 (v.extractLsb' 8 8) (v.extractLsb' 0 8) = v :=
  append_extract (w := 8) (v := 8) v

/-- Two bytes read as a 16-bit operand are its two halves. -/
@[simp] theorem word16_be16 (hi lo : Byte) : word16 (be16 hi lo) = [hi, lo] := by
  rw [word16_eq, be16, extract_hi (w := 8) (v := 8) hi lo, extract_lo (w := 8) (v := 8) hi lo]

theorem toNat_append_byte {w : Nat} (x : BitVec w) (b : Byte) : (x ++ b).toNat = 256 * x.toNat + b.toNat := by
  rw [BitVec.toNat_append, ← Nat.shiftLeft_add_eq_or_of_lt b.isLt, Nat.shiftLeft_eq]
  omega

theorem be32_eq (b3 b2 b1 b0 : Byte) :
    be32 b3 b2 b1 b0 = 16777216 * b3.toNat + 65536 * b2.toNat + 256 * b1.toNat + b0.toNat := by
  unfold be32
  erw [toNat_append_byte, toNat_append_byte, toNat_append_byte]
  omega

theorem beBytes_four (n : Nat) :
    beBytes 4 n = [BitVec.ofNat 8 (n / 16777216), BitVec.ofNat 8 (n / 65536), BitVec.ofNat 8 (n / 256),
      BitVec.ofNat 8 n] := by
  simp [beBytes]

/-- A 32-bit length written big-endian is read back. -/
theorem be32_beBytes {n : Nat} (h : n < 2 ^ 32) :
    be32 (BitVec.ofNat 8 (n / 16777216)) (BitVec.ofNat 8 (n / 65536)) (BitVec.ofNat 8 (n / 256))
      (BitVec.ofNat 8 n) = n := by
  rw [be32_eq]
  simp only [BitVec.toNat_ofNat]
  omega

/-- Four bytes read as a length are that length's bytes. -/
theorem beBytes_be32 (b3 b2 b1 b0 : Byte) : beBytes 4 (be32 b3 b2 b1 b0) = [b3, b2, b1, b0] := by
  have h0 := b0.isLt; have h1 := b1.isLt; have h2 := b2.isLt; have h3 := b3.isLt
  rw [beBytes_four, be32_eq]
  simp only [List.cons.injEq, and_true]
  refine ⟨?_, ?_, ?_, ?_⟩ <;> apply BitVec.eq_of_toNat_eq <;> simp only [BitVec.toNat_ofNat] <;> omega

theorem be32_lt (b3 b2 b1 b0 : Byte) : be32 b3 b2 b1 b0 < 2 ^ 32 := BitVec.isLt _

@[simp] theorem beBytes_length (n v : Nat) : (beBytes n v).length = n := by
  induction n with
  | zero => rfl
  | succ n ih => simp [beBytes, ih]

/-! ### Byte sequences -/

@[simp] theorem splitBytes_append {n : Nat} (b : Bytes n) (rest : List Byte) :
    splitBytes n (b.data ++ rest) = some (b, rest) := by
  have h : n ≤ (b.data ++ rest).length := by rw [List.length_append, b.size]; omega
  obtain ⟨data, size⟩ := b
  subst size
  simp [splitBytes]

theorem splitBytes_some {n : Nat} {bs rest : List Byte} {b : Bytes n} (h : splitBytes n bs = some (b, rest)) :
    b.data ++ rest = bs := by
  unfold splitBytes at h
  split at h
  · cases h; exact List.take_append_drop ..
  · cases h

theorem Bytes.slice_length {n : Nat} (b : Bytes n) {i j : Nat} (hj : j ≤ n) : (b.slice i j).length = j - i := by
  simp [Bytes.slice, b.size, Nat.min_eq_left hj]

@[simp] theorem Bytes.tail_data {n : Nat} (b : Bytes n) (k : Nat) : (b.tail k).data = b.data.drop k := rfl

theorem Bytes.ext_data {n : Nat} {a b : Bytes n} (h : a.data = b.data) : a = b := by
  cases a; cases b; cases h; rfl

/-! ### The packet header -/

@[simp] theorem teiOf_tsByte1 (t u p : Bool) (pid : BitVec 13) : teiOf (tsByte1 t u p pid) = t := by
  rw [tsByte1]; generalize pid.extractLsb' 8 5 = x
  cases t <;> cases u <;> cases p <;> revert x <;> decide

@[simp] theorem pusiOf_tsByte1 (t u p : Bool) (pid : BitVec 13) : pusiOf (tsByte1 t u p pid) = u := by
  rw [tsByte1]; generalize pid.extractLsb' 8 5 = x
  cases t <;> cases u <;> cases p <;> revert x <;> decide

@[simp] theorem prioOf_tsByte1 (t u p : Bool) (pid : BitVec 13) : prioOf (tsByte1 t u p pid) = p := by
  rw [tsByte1]; generalize pid.extractLsb' 8 5 = x
  cases t <;> cases u <;> cases p <;> revert x <;> decide

@[simp] theorem pidOf_tsByte1 (t u p : Bool) (pid : BitVec 13) :
    pidOf (tsByte1 t u p pid) (pid.extractLsb' 0 8) = pid := by
  have h : (tsByte1 t u p pid).extractLsb' 0 5 = pid.extractLsb' 8 5 := by
    rw [tsByte1]; generalize pid.extractLsb' 8 5 = x
    cases t <;> cases u <;> cases p <;> revert x <;> decide
  rw [pidOf, h]
  exact append_extract (w := 5) (v := 8) pid

@[simp] theorem tscOf_tsByte3 (t : BitVec 2) (a p : Bool) (c : BitVec 4) : tscOf (tsByte3 t a p c) = t := by
  cases a <;> cases p <;> revert t c <;> decide

@[simp] theorem adaptationOf_tsByte3 (t : BitVec 2) (a p : Bool) (c : BitVec 4) :
    adaptationOf (tsByte3 t a p c) = a := by
  cases a <;> cases p <;> revert t c <;> decide

@[simp] theorem payloadOf_tsByte3 (t : BitVec 2) (a p : Bool) (c : BitVec 4) :
    payloadOf (tsByte3 t a p c) = p := by
  cases a <;> cases p <;> revert t c <;> decide

@[simp] theorem afcOf_tsByte3 (t : BitVec 2) (a p : Bool) (c : BitVec 4) :
    afcOf (tsByte3 t a p c) = BitVec.ofBool a ++ BitVec.ofBool p := by
  cases a <;> cases p <;> revert t c <;> decide

@[simp] theorem ccOf_tsByte3 (t : BitVec 2) (a p : Bool) (c : BitVec 4) : ccOf (tsByte3 t a p c) = c := by
  cases a <;> cases p <;> revert t c <;> decide

/-- Byte 3 is its fields put together. -/
theorem tsByte3_fields (b3 : Byte) :
    tsByte3 (tscOf b3) (adaptationOf b3) (payloadOf b3) (ccOf b3) = b3 := by
  revert b3; decide

/-- Byte 1 is its fields put together. -/
theorem tsByte1_fields (b1 b2 : Byte) : tsByte1 (teiOf b1) (pusiOf b1) (prioOf b1) (pidOf b1 b2) = b1 := by
  have hp : (pidOf b1 b2).extractLsb' 8 5 = b1.extractLsb' 0 5 := 
    extract_hi (w := 5) (v := 8) _ b2
  rw [tsByte1, hp]; clear hp; revert b1; decide

theorem pidOf_low (b1 b2 : Byte) : (pidOf b1 b2).extractLsb' 0 8 = b2 := 
  extract_lo (w := 5) (v := 8) _ b2

/-- A byte with bit 7 set is that bit and the seven below. -/
theorem highBit_low7 (b : Byte) (h : teiOf b = true) : BitVec.ofBool true ++ b.extractLsb' 0 7 = b := by
  revert b; decide

@[simp] theorem teiOf_highBit (v : BitVec 7) : teiOf (BitVec.ofBool true ++ v) = true := by
  revert v; decide

theorem low7_highBit (v : BitVec 7) : (BitVec.ofBool true ++ v : BitVec 8).extractLsb' 0 7 = v := by
  revert v; decide

/-! ### The section header -/

@[simp] theorem ssiOf_assembled (b : Bool) (u : BitVec 3) (n : BitVec 4) :
    ssiOf (BitVec.ofBool b ++ u ++ n) = b := by
  cases b <;> revert u n <;> decide

@[simp] theorem secUnreadOf_assembled (b : Bool) (u : BitVec 3) (n : BitVec 4) :
    secUnreadOf (BitVec.ofBool b ++ u ++ n) = u := by
  cases b <;> revert u n <;> decide

@[simp] theorem sectionLengthOf_assembled (b : Bool) (u : BitVec 3) (len : BitVec 12) :
    sectionLengthOf (BitVec.ofBool b ++ u ++ len.extractLsb' 8 4) (len.extractLsb' 0 8) = len := by
  have h4 : (BitVec.ofBool b ++ u ++ len.extractLsb' 8 4 : BitVec 8).extractLsb' 0 4 = len.extractLsb' 8 4 := by
    generalize len.extractLsb' 8 4 = n
    cases b <;> revert u n <;> decide
  rw [sectionLengthOf, h4]
  exact append_extract (w := 4) (v := 8) len

/-- Byte 1 of a section is its fields put together. -/
theorem secByte1_fields (s1 s2 : Byte) :
    BitVec.ofBool (ssiOf s1) ++ secUnreadOf s1 ++ (sectionLengthOf s1 s2).extractLsb' 8 4 = s1 := by
  have h : (sectionLengthOf s1 s2).extractLsb' 8 4 = s1.extractLsb' 0 4 := 
    extract_hi (w := 4) (v := 8) _ s2
  rw [h]; clear h; revert s1; decide

theorem sectionLengthOf_low (s1 s2 : Byte) : (sectionLengthOf s1 s2).extractLsb' 0 8 = s2 := 
  extract_lo (w := 4) (v := 8) _ s2

end Sys2Proof
end

