-- ==== Sys2Proof/Laws/Memory.lean ====
section
/-!
SUPPORT. The laws of the PID-indexed files: what a read gives after a write, and that every write keeps the canonical form.
-/

namespace Sys2Proof.Machine

variable {α : Type}

@[simp] theorem Memory.read_nil (d : α) (k : Nat) : Memory.read d [] k = d := rfl

theorem Memory.read_erase_same (d : α) (m : List (Nat × α)) (k : Nat) :
    Memory.read d (Memory.erase m k) k = d := by
  induction m with
  | nil => rfl
  | cons x m ih =>
    obtain ⟨k', v⟩ := x
    by_cases h : k' = k <;> simp [Memory.erase, Memory.read, h, ih]

theorem Memory.read_erase_ne (d : α) (m : List (Nat × α)) {k j : Nat} (hj : j ≠ k) :
    Memory.read d (Memory.erase m k) j = Memory.read d m j := by
  induction m with
  | nil => rfl
  | cons x m ih =>
    obtain ⟨k', v⟩ := x
    by_cases h : k' = k
    · subst h; simp [Memory.erase, Memory.read, Ne.symm hj, ih]
    · rw [Memory.erase, if_neg h, Memory.read, Memory.read, ih]

theorem Memory.read_insert_same (d : α) (m : List (Nat × α)) (k : Nat) (v : α) :
    Memory.read d (Memory.insert m k v) k = v := by
  induction m with
  | nil => simp [Memory.insert, Memory.read]
  | cons x m ih =>
    obtain ⟨k', v'⟩ := x
    by_cases h : k' < k
    · have : k' ≠ k := by omega
      simp [Memory.insert, Memory.read, h, this, ih]
    · simp [Memory.insert, Memory.read, h]

theorem Memory.read_insert_ne (d : α) (m : List (Nat × α)) {k j : Nat} (v : α) (hj : j ≠ k) :
    Memory.read d (Memory.insert m k v) j = Memory.read d m j := by
  induction m with
  | nil => simp [Memory.insert, Memory.read, Ne.symm hj]
  | cons x m ih =>
    obtain ⟨k', v'⟩ := x
    by_cases h : k' < k
    · rw [Memory.insert, if_pos h, Memory.read, Memory.read, ih]
    · simp [Memory.insert, Memory.read, h, Ne.symm hj]

theorem Memory.mem_erase {m : List (Nat × α)} {k : Nat} {x : Nat × α} :
    x ∈ Memory.erase m k ↔ x ∈ m ∧ x.1 ≠ k := by
  induction m with
  | nil => simp [Memory.erase]
  | cons y m ih =>
    obtain ⟨k', v⟩ := y
    by_cases h : k' = k
    · rw [Memory.erase, if_pos h, ih, List.mem_cons]
      constructor
      · rintro ⟨hm, hk⟩; exact ⟨.inr hm, hk⟩
      · rintro ⟨rfl | hm, hk⟩
        · exact absurd h hk
        · exact ⟨hm, hk⟩
    · rw [Memory.erase, if_neg h, List.mem_cons, ih, List.mem_cons]
      constructor
      · rintro (rfl | ⟨hm, hk⟩)
        · exact ⟨.inl rfl, h⟩
        · exact ⟨.inr hm, hk⟩
      · rintro ⟨rfl | hm, hk⟩
        · exact .inl rfl
        · exact .inr ⟨hm, hk⟩

theorem Memory.mem_insert {m : List (Nat × α)} {k : Nat} {v : α} {x : Nat × α} :
    x ∈ Memory.insert m k v ↔ x = (k, v) ∨ x ∈ m := by
  induction m with
  | nil => simp [Memory.insert]
  | cons y m ih =>
    obtain ⟨k', v'⟩ := y
    by_cases h : k' < k
    · rw [Memory.insert, if_pos h, List.mem_cons, ih, List.mem_cons, or_left_comm]
    · rw [Memory.insert, if_neg h, List.mem_cons]

theorem Memory.rising_erase {m : List (Nat × α)} (h : m.Pairwise (fun x y => x.1 < y.1)) (k : Nat) :
    (Memory.erase m k).Pairwise (fun x y => x.1 < y.1) := by
  induction m with
  | nil => exact .nil
  | cons y m ih =>
    obtain ⟨k', v⟩ := y
    rw [List.pairwise_cons] at h
    rw [Memory.erase]
    split
    · exact ih h.2
    · exact List.pairwise_cons.2 ⟨fun x hx => h.1 x (Memory.mem_erase.1 hx).1, ih h.2⟩

theorem Memory.rising_insert {m : List (Nat × α)} (h : m.Pairwise (fun x y => x.1 < y.1)) {k : Nat} (v : α)
    (hk : ∀ x ∈ m, x.1 ≠ k) : (Memory.insert m k v).Pairwise (fun x y => x.1 < y.1) := by
  induction m with
  | nil => exact List.pairwise_singleton ..
  | cons y m ih =>
    obtain ⟨k', v'⟩ := y
    rw [List.pairwise_cons] at h
    have hk' : k' ≠ k := hk _ (List.mem_cons_self ..)
    rw [Memory.insert]
    split
    · next hlt =>
      refine List.pairwise_cons.2 ⟨fun x hx => ?_, ih h.2 fun x hx => hk x (List.mem_cons_of_mem _ hx)⟩
      rcases Memory.mem_insert.1 hx with rfl | hx
      · exact hlt
      · exact h.1 x hx
    · next hge =>
      have hlt : k < k' := by omega
      refine List.pairwise_cons.2 ⟨fun x hx => ?_, List.pairwise_cons.2 h⟩
      rcases List.mem_cons.1 hx with rfl | hx
      · exact hlt
      · exact Nat.lt_trans hlt (h.1 x hx)

theorem Memory.wf_nil (d : α) : Memory.wf d ([] : List (Nat × α)) := by
  simp [Memory.wf]

variable [DecidableEq α]

/-- A read after a write to the same index gives the value written. -/
@[simp] theorem Memory.read_write_same (d : α) (m : List (Nat × α)) (k : Nat) (v : α) :
    Memory.read d (Memory.write d m k v) k = v := by
  unfold Memory.write
  split
  · next h => rw [Memory.read_erase_same, h]
  · exact Memory.read_insert_same ..

/-- A write leaves every other index alone. -/
theorem Memory.read_write_ne (d : α) (m : List (Nat × α)) {k j : Nat} (v : α) (hj : j ≠ k) :
    Memory.read d (Memory.write d m k v) j = Memory.read d m j := by
  unfold Memory.write
  split
  · exact Memory.read_erase_ne d m hj
  · rw [Memory.read_insert_ne d _ v hj, Memory.read_erase_ne d m hj]

theorem Memory.read_write (d : α) (m : List (Nat × α)) (k j : Nat) (v : α) :
    Memory.read d (Memory.write d m k v) j = if j = k then v else Memory.read d m j := by
  split
  · next h => rw [h, Memory.read_write_same]
  · next h => exact Memory.read_write_ne d m v h

/-- Every write keeps the canonical form. -/
theorem Memory.wf_write {d : α} {m : List (Nat × α)} (h : Memory.wf d m) (k : Nat) (v : α) :
    Memory.wf d (Memory.write d m k v) := by
  unfold Memory.write
  have he := Memory.rising_erase h.1 k
  split
  · exact ⟨he, fun x hx => h.2 x (Memory.mem_erase.1 hx).1⟩
  · next hv =>
    refine ⟨Memory.rising_insert he v fun x hx => (Memory.mem_erase.1 hx).2, fun x hx => ?_⟩
    rcases Memory.mem_insert.1 hx with rfl | hx
    · exact hv
    · exact h.2 x (Memory.mem_erase.1 hx).1

end Sys2Proof.Machine
end

