-- ==== Sys2Proof/Laws/State.lean ====
section
/-!
SUPPORT. For each update of the state, what each field and each register reads as after it; so that no proof unfolds a
record update.
-/

namespace Sys2Proof.Machine

/-- R228: `FATAL` is set in what is written. -/
theorem statusWith_fatal (st : BitVec 8) (c : FatalCause) : (statusWith st c).getLsbD 0 = true := by
  cases c <;> revert st <;> decide

/-- R228: `CAUSE` is the cause in what is written. -/
theorem statusWith_cause (st : BitVec 8) (c : FatalCause) : (statusWith st c).extractLsb' 1 2 = c.code := by
  cases c <;> revert st <;> decide

/-- R35: the reserved bits are as they were in what is written. -/
theorem statusWith_reserved (st : BitVec 8) (c : FatalCause) :
    (statusWith st c).extractLsb' 3 5 = st.extractLsb' 3 5 := by
  cases c <;> revert st <;> decide

variable (s : State)

/-! ### respond -/

@[simp] theorem State.respond_params (st : Status) (data : List Byte) : (s.respond st data).params = s.params
    := rfl
@[simp] theorem State.respond_acc (st : Status) (data : List Byte) : (s.respond st data).acc = s.acc
    := rfl
@[simp] theorem State.respond_seen (st : Status) (data : List Byte) : (s.respond st data).seen = s.seen
    := rfl
@[simp] theorem State.respond_handlers (st : Status) (data : List Byte) : (s.respond st data).handlers = s.handlers
    := rfl
@[simp] theorem State.respond_obs (st : Status) (data : List Byte) : (s.respond st data).obs = s.obs
    := rfl
@[simp] theorem State.respond_totalPackets (st : Status) (data : List Byte) : (s.respond st data).totalPackets = s.totalPackets
    := rfl
@[simp] theorem State.respond_totalCcErrors (st : Status) (data : List Byte) : (s.respond st data).totalCcErrors = s.totalCcErrors
    := rfl
@[simp] theorem State.respond_status (st : Status) (data : List Byte) : (s.respond st data).status = s.status
    := rfl
@[simp] theorem State.respond_cmd (st : Status) (data : List Byte) : (s.respond st data).cmd = s.cmd
    := rfl
@[simp] theorem State.respond_evtFailures (st : Status) (data : List Byte) : (s.respond st data).evtFailures = s.evtFailures
    := rfl
@[simp] theorem State.respond_rsp (st : Status) (data : List Byte) : (s.respond st data).rsp = s.rsp ++ [{ status := st, data := data }]
    := rfl
@[simp] theorem State.respond_evt (st : Status) (data : List Byte) : (s.respond st data).evt = s.evt
    := rfl
@[simp] theorem State.respond_log (st : Status) (data : List Byte) : (s.respond st data).log = s.log
    := rfl
@[simp] theorem State.respond_accum (st : Status) (data : List Byte) (q : Nat) : (s.respond st data).accum q = s.accum q := rfl
@[simp] theorem State.respond_seenBit (st : Status) (data : List Byte) (q : Nat) : (s.respond st data).seenBit q = s.seenBit q := rfl
@[simp] theorem State.respond_slot (st : Status) (data : List Byte) (q : Nat) : (s.respond st data).slot q = s.slot q := rfl
@[simp] theorem State.respond_fatal (st : Status) (data : List Byte) : (s.respond st data).fatal = s.fatal := rfl
@[simp] theorem State.respond_cause (st : Status) (data : List Byte) : (s.respond st data).cause = s.cause := rfl

/-! ### raise -/

@[simp] theorem State.raise_params (st : Status) : (s.raise st).params = s.params := rfl
@[simp] theorem State.raise_acc (st : Status) : (s.raise st).acc = s.acc := rfl
@[simp] theorem State.raise_seen (st : Status) : (s.raise st).seen = s.seen := rfl
@[simp] theorem State.raise_handlers (st : Status) : (s.raise st).handlers = s.handlers := rfl
@[simp] theorem State.raise_obs (st : Status) : (s.raise st).obs = s.obs := rfl
@[simp] theorem State.raise_totalPackets (st : Status) : (s.raise st).totalPackets = s.totalPackets := rfl
@[simp] theorem State.raise_totalCcErrors (st : Status) : (s.raise st).totalCcErrors = s.totalCcErrors
    := rfl
@[simp] theorem State.raise_status (st : Status) : (s.raise st).status = s.status := rfl
@[simp] theorem State.raise_cmd (st : Status) : (s.raise st).cmd = s.cmd := rfl
@[simp] theorem State.raise_evtFailures (st : Status) : (s.raise st).evtFailures = s.evtFailures := rfl
@[simp] theorem State.raise_rsp (st : Status) : (s.raise st).rsp = s.rsp ++ [{ status := st, data := [] }]
    := rfl
@[simp] theorem State.raise_evt (st : Status) : (s.raise st).evt = s.evt := rfl
@[simp] theorem State.raise_log (st : Status) : (s.raise st).log = s.log := rfl
@[simp] theorem State.raise_accum (st : Status) (q : Nat) : (s.raise st).accum q = s.accum q := rfl
@[simp] theorem State.raise_seenBit (st : Status) (q : Nat) : (s.raise st).seenBit q = s.seenBit q := rfl
@[simp] theorem State.raise_slot (st : Status) (q : Nat) : (s.raise st).slot q = s.slot q := rfl
@[simp] theorem State.raise_fatal (st : Status) : (s.raise st).fatal = s.fatal := rfl
@[simp] theorem State.raise_cause (st : Status) : (s.raise st).cause = s.cause := rfl

/-! ### emit -/

@[simp] theorem State.emit_params (rs : List EvtRecord) : (s.emit rs).params = s.params := rfl
@[simp] theorem State.emit_acc (rs : List EvtRecord) : (s.emit rs).acc = s.acc := rfl
@[simp] theorem State.emit_seen (rs : List EvtRecord) : (s.emit rs).seen = s.seen := rfl
@[simp] theorem State.emit_handlers (rs : List EvtRecord) : (s.emit rs).handlers = s.handlers := rfl
@[simp] theorem State.emit_obs (rs : List EvtRecord) : (s.emit rs).obs = s.obs := rfl
@[simp] theorem State.emit_totalPackets (rs : List EvtRecord) : (s.emit rs).totalPackets = s.totalPackets
    := rfl
@[simp] theorem State.emit_totalCcErrors (rs : List EvtRecord) : (s.emit rs).totalCcErrors = s.totalCcErrors
    := rfl
@[simp] theorem State.emit_status (rs : List EvtRecord) : (s.emit rs).status = s.status := rfl
@[simp] theorem State.emit_cmd (rs : List EvtRecord) : (s.emit rs).cmd = s.cmd := rfl
@[simp] theorem State.emit_evtFailures (rs : List EvtRecord) : (s.emit rs).evtFailures = s.evtFailures
    := rfl
@[simp] theorem State.emit_rsp (rs : List EvtRecord) : (s.emit rs).rsp = s.rsp := rfl
@[simp] theorem State.emit_evt (rs : List EvtRecord) : (s.emit rs).evt = s.evt ++ rs := rfl
@[simp] theorem State.emit_log (rs : List EvtRecord) : (s.emit rs).log = s.log := rfl
@[simp] theorem State.emit_accum (rs : List EvtRecord) (q : Nat) : (s.emit rs).accum q = s.accum q := rfl
@[simp] theorem State.emit_seenBit (rs : List EvtRecord) (q : Nat) : (s.emit rs).seenBit q = s.seenBit q := rfl
@[simp] theorem State.emit_slot (rs : List EvtRecord) (q : Nat) : (s.emit rs).slot q = s.slot q := rfl
@[simp] theorem State.emit_fatal (rs : List EvtRecord) : (s.emit rs).fatal = s.fatal := rfl
@[simp] theorem State.emit_cause (rs : List EvtRecord) : (s.emit rs).cause = s.cause := rfl

/-! ### dispatch -/

@[simp] theorem State.dispatch_params (p : BitVec 13) (e : Event) : (s.dispatch p e).params = s.params
    := rfl
@[simp] theorem State.dispatch_acc (p : BitVec 13) (e : Event) : (s.dispatch p e).acc = s.acc := rfl
@[simp] theorem State.dispatch_seen (p : BitVec 13) (e : Event) : (s.dispatch p e).seen = s.seen := rfl
@[simp] theorem State.dispatch_handlers (p : BitVec 13) (e : Event) : (s.dispatch p e).handlers = s.handlers
    := rfl
@[simp] theorem State.dispatch_obs (p : BitVec 13) (e : Event) : (s.dispatch p e).obs = s.obs := rfl
@[simp] theorem State.dispatch_totalPackets (p : BitVec 13) (e : Event) : (s.dispatch p e).totalPackets = s.totalPackets
    := rfl
@[simp] theorem State.dispatch_totalCcErrors (p : BitVec 13) (e : Event) : (s.dispatch p e).totalCcErrors = s.totalCcErrors
    := rfl
@[simp] theorem State.dispatch_status (p : BitVec 13) (e : Event) : (s.dispatch p e).status = s.status
    := rfl
@[simp] theorem State.dispatch_cmd (p : BitVec 13) (e : Event) : (s.dispatch p e).cmd = s.cmd := rfl
@[simp] theorem State.dispatch_evtFailures (p : BitVec 13) (e : Event) : (s.dispatch p e).evtFailures = s.evtFailures
    := rfl
@[simp] theorem State.dispatch_rsp (p : BitVec 13) (e : Event) : (s.dispatch p e).rsp = s.rsp := rfl
@[simp] theorem State.dispatch_evt (p : BitVec 13) (e : Event) : (s.dispatch p e).evt = s.evt ++ dispatchRecords s p e
    := rfl
@[simp] theorem State.dispatch_log (p : BitVec 13) (e : Event) : (s.dispatch p e).log = s.log := rfl
@[simp] theorem State.dispatch_accum (p : BitVec 13) (e : Event) (q : Nat) : (s.dispatch p e).accum q = s.accum q := rfl
@[simp] theorem State.dispatch_seenBit (p : BitVec 13) (e : Event) (q : Nat) : (s.dispatch p e).seenBit q = s.seenBit q := rfl
@[simp] theorem State.dispatch_slot (p : BitVec 13) (e : Event) (q : Nat) : (s.dispatch p e).slot q = s.slot q := rfl
@[simp] theorem State.dispatch_fatal (p : BitVec 13) (e : Event) : (s.dispatch p e).fatal = s.fatal := rfl
@[simp] theorem State.dispatch_cause (p : BitVec 13) (e : Event) : (s.dispatch p e).cause = s.cause := rfl

/-! ### countPacket -/

@[simp] theorem State.countPacket_params : (s.countPacket).params = s.params := rfl
@[simp] theorem State.countPacket_acc : (s.countPacket).acc = s.acc := rfl
@[simp] theorem State.countPacket_seen : (s.countPacket).seen = s.seen := rfl
@[simp] theorem State.countPacket_handlers : (s.countPacket).handlers = s.handlers := rfl
@[simp] theorem State.countPacket_obs : (s.countPacket).obs = s.obs := rfl
@[simp] theorem State.countPacket_totalPackets : (s.countPacket).totalPackets = wrap s.params (s.totalPackets + 1)
    := rfl
@[simp] theorem State.countPacket_totalCcErrors : (s.countPacket).totalCcErrors = s.totalCcErrors := rfl
@[simp] theorem State.countPacket_status : (s.countPacket).status = s.status := rfl
@[simp] theorem State.countPacket_cmd : (s.countPacket).cmd = s.cmd := rfl
@[simp] theorem State.countPacket_evtFailures : (s.countPacket).evtFailures = s.evtFailures := rfl
@[simp] theorem State.countPacket_rsp : (s.countPacket).rsp = s.rsp := rfl
@[simp] theorem State.countPacket_evt : (s.countPacket).evt = s.evt := rfl
@[simp] theorem State.countPacket_log : (s.countPacket).log = s.log := rfl
@[simp] theorem State.countPacket_accum (q : Nat) : (s.countPacket).accum q = s.accum q := rfl
@[simp] theorem State.countPacket_seenBit (q : Nat) : (s.countPacket).seenBit q = s.seenBit q := rfl
@[simp] theorem State.countPacket_slot (q : Nat) : (s.countPacket).slot q = s.slot q := rfl
@[simp] theorem State.countPacket_fatal : (s.countPacket).fatal = s.fatal := rfl
@[simp] theorem State.countPacket_cause : (s.countPacket).cause = s.cause := rfl

/-! ### countCcError -/

@[simp] theorem State.countCcError_params : (s.countCcError).params = s.params := rfl
@[simp] theorem State.countCcError_acc : (s.countCcError).acc = s.acc := rfl
@[simp] theorem State.countCcError_seen : (s.countCcError).seen = s.seen := rfl
@[simp] theorem State.countCcError_handlers : (s.countCcError).handlers = s.handlers := rfl
@[simp] theorem State.countCcError_obs : (s.countCcError).obs = s.obs := rfl
@[simp] theorem State.countCcError_totalPackets : (s.countCcError).totalPackets = s.totalPackets := rfl
@[simp] theorem State.countCcError_totalCcErrors : (s.countCcError).totalCcErrors = wrap s.params (s.totalCcErrors + 1)
    := rfl
@[simp] theorem State.countCcError_status : (s.countCcError).status = s.status := rfl
@[simp] theorem State.countCcError_cmd : (s.countCcError).cmd = s.cmd := rfl
@[simp] theorem State.countCcError_evtFailures : (s.countCcError).evtFailures = s.evtFailures := rfl
@[simp] theorem State.countCcError_rsp : (s.countCcError).rsp = s.rsp := rfl
@[simp] theorem State.countCcError_evt : (s.countCcError).evt = s.evt := rfl
@[simp] theorem State.countCcError_log : (s.countCcError).log = s.log := rfl
@[simp] theorem State.countCcError_accum (q : Nat) : (s.countCcError).accum q = s.accum q := rfl
@[simp] theorem State.countCcError_seenBit (q : Nat) : (s.countCcError).seenBit q = s.seenBit q := rfl
@[simp] theorem State.countCcError_slot (q : Nat) : (s.countCcError).slot q = s.slot q := rfl
@[simp] theorem State.countCcError_fatal : (s.countCcError).fatal = s.fatal := rfl
@[simp] theorem State.countCcError_cause : (s.countCcError).cause = s.cause := rfl

/-! ### setAccum -/

@[simp] theorem State.setAccum_params (p : Nat) (a : Accum) : (s.setAccum p a).params = s.params := rfl
@[simp] theorem State.setAccum_acc (p : Nat) (a : Accum) : (s.setAccum p a).acc = Memory.write Accum.idle s.acc p a
    := rfl
@[simp] theorem State.setAccum_seen (p : Nat) (a : Accum) : (s.setAccum p a).seen = s.seen := rfl
@[simp] theorem State.setAccum_handlers (p : Nat) (a : Accum) : (s.setAccum p a).handlers = s.handlers
    := rfl
@[simp] theorem State.setAccum_obs (p : Nat) (a : Accum) : (s.setAccum p a).obs = s.obs := rfl
@[simp] theorem State.setAccum_totalPackets (p : Nat) (a : Accum) : (s.setAccum p a).totalPackets = s.totalPackets
    := rfl
@[simp] theorem State.setAccum_totalCcErrors (p : Nat) (a : Accum) : (s.setAccum p a).totalCcErrors = s.totalCcErrors
    := rfl
@[simp] theorem State.setAccum_status (p : Nat) (a : Accum) : (s.setAccum p a).status = s.status := rfl
@[simp] theorem State.setAccum_cmd (p : Nat) (a : Accum) : (s.setAccum p a).cmd = s.cmd := rfl
@[simp] theorem State.setAccum_evtFailures (p : Nat) (a : Accum) : (s.setAccum p a).evtFailures = s.evtFailures
    := rfl
@[simp] theorem State.setAccum_rsp (p : Nat) (a : Accum) : (s.setAccum p a).rsp = s.rsp := rfl
@[simp] theorem State.setAccum_evt (p : Nat) (a : Accum) : (s.setAccum p a).evt = s.evt := rfl
@[simp] theorem State.setAccum_log (p : Nat) (a : Accum) : (s.setAccum p a).log = s.log := rfl
@[simp] theorem State.setAccum_accum (p : Nat) (a : Accum) (q : Nat) : (s.setAccum p a).accum q = if q = p then a else s.accum q :=
  Memory.read_write ..
@[simp] theorem State.setAccum_seenBit (p : Nat) (a : Accum) (q : Nat) : (s.setAccum p a).seenBit q = s.seenBit q := rfl
@[simp] theorem State.setAccum_slot (p : Nat) (a : Accum) (q : Nat) : (s.setAccum p a).slot q = s.slot q := rfl
@[simp] theorem State.setAccum_fatal (p : Nat) (a : Accum) : (s.setAccum p a).fatal = s.fatal := rfl
@[simp] theorem State.setAccum_cause (p : Nat) (a : Accum) : (s.setAccum p a).cause = s.cause := rfl

/-! ### clearAccum -/

@[simp] theorem State.clearAccum_params (p : Nat) : (s.clearAccum p).params = s.params := rfl
@[simp] theorem State.clearAccum_acc (p : Nat) : (s.clearAccum p).acc = Memory.write Accum.idle s.acc p Accum.idle
    := rfl
@[simp] theorem State.clearAccum_seen (p : Nat) : (s.clearAccum p).seen = s.seen := rfl
@[simp] theorem State.clearAccum_handlers (p : Nat) : (s.clearAccum p).handlers = s.handlers := rfl
@[simp] theorem State.clearAccum_obs (p : Nat) : (s.clearAccum p).obs = s.obs := rfl
@[simp] theorem State.clearAccum_totalPackets (p : Nat) : (s.clearAccum p).totalPackets = s.totalPackets
    := rfl
@[simp] theorem State.clearAccum_totalCcErrors (p : Nat) : (s.clearAccum p).totalCcErrors = s.totalCcErrors
    := rfl
@[simp] theorem State.clearAccum_status (p : Nat) : (s.clearAccum p).status = s.status := rfl
@[simp] theorem State.clearAccum_cmd (p : Nat) : (s.clearAccum p).cmd = s.cmd := rfl
@[simp] theorem State.clearAccum_evtFailures (p : Nat) : (s.clearAccum p).evtFailures = s.evtFailures
    := rfl
@[simp] theorem State.clearAccum_rsp (p : Nat) : (s.clearAccum p).rsp = s.rsp := rfl
@[simp] theorem State.clearAccum_evt (p : Nat) : (s.clearAccum p).evt = s.evt := rfl
@[simp] theorem State.clearAccum_log (p : Nat) : (s.clearAccum p).log = s.log := rfl
@[simp] theorem State.clearAccum_accum (p : Nat) (q : Nat) : (s.clearAccum p).accum q = if q = p then Accum.idle else s.accum q :=
  Memory.read_write Accum.idle s.acc p q Accum.idle
@[simp] theorem State.clearAccum_seenBit (p : Nat) (q : Nat) : (s.clearAccum p).seenBit q = s.seenBit q := rfl
@[simp] theorem State.clearAccum_slot (p : Nat) (q : Nat) : (s.clearAccum p).slot q = s.slot q := rfl
@[simp] theorem State.clearAccum_fatal (p : Nat) : (s.clearAccum p).fatal = s.fatal := rfl
@[simp] theorem State.clearAccum_cause (p : Nat) : (s.clearAccum p).cause = s.cause := rfl

/-! ### setSeen -/

@[simp] theorem State.setSeen_params (p : Nat) : (s.setSeen p).params = s.params := rfl
@[simp] theorem State.setSeen_acc (p : Nat) : (s.setSeen p).acc = s.acc := rfl
@[simp] theorem State.setSeen_seen (p : Nat) : (s.setSeen p).seen = Memory.write false s.seen p true
    := rfl
@[simp] theorem State.setSeen_handlers (p : Nat) : (s.setSeen p).handlers = s.handlers := rfl
@[simp] theorem State.setSeen_obs (p : Nat) : (s.setSeen p).obs = s.obs := rfl
@[simp] theorem State.setSeen_totalPackets (p : Nat) : (s.setSeen p).totalPackets = s.totalPackets := rfl
@[simp] theorem State.setSeen_totalCcErrors (p : Nat) : (s.setSeen p).totalCcErrors = s.totalCcErrors
    := rfl
@[simp] theorem State.setSeen_status (p : Nat) : (s.setSeen p).status = s.status := rfl
@[simp] theorem State.setSeen_cmd (p : Nat) : (s.setSeen p).cmd = s.cmd := rfl
@[simp] theorem State.setSeen_evtFailures (p : Nat) : (s.setSeen p).evtFailures = s.evtFailures := rfl
@[simp] theorem State.setSeen_rsp (p : Nat) : (s.setSeen p).rsp = s.rsp := rfl
@[simp] theorem State.setSeen_evt (p : Nat) : (s.setSeen p).evt = s.evt := rfl
@[simp] theorem State.setSeen_log (p : Nat) : (s.setSeen p).log = s.log := rfl
@[simp] theorem State.setSeen_accum (p : Nat) (q : Nat) : (s.setSeen p).accum q = s.accum q := rfl
@[simp] theorem State.setSeen_seenBit (p : Nat) (q : Nat) : (s.setSeen p).seenBit q = if q = p then true else s.seenBit q :=
  Memory.read_write false s.seen p q true
@[simp] theorem State.setSeen_slot (p : Nat) (q : Nat) : (s.setSeen p).slot q = s.slot q := rfl
@[simp] theorem State.setSeen_fatal (p : Nat) : (s.setSeen p).fatal = s.fatal := rfl
@[simp] theorem State.setSeen_cause (p : Nat) : (s.setSeen p).cause = s.cause := rfl

/-! ### setSlot -/

@[simp] theorem State.setSlot_params (p : Nat) (h : HandlerSlot) : (s.setSlot p h).params = s.params
    := rfl
@[simp] theorem State.setSlot_acc (p : Nat) (h : HandlerSlot) : (s.setSlot p h).acc = s.acc := rfl
@[simp] theorem State.setSlot_seen (p : Nat) (h : HandlerSlot) : (s.setSlot p h).seen = s.seen := rfl
@[simp] theorem State.setSlot_handlers (p : Nat) (h : HandlerSlot) : (s.setSlot p h).handlers = Memory.write HandlerSlot.empty s.handlers p h
    := rfl
@[simp] theorem State.setSlot_obs (p : Nat) (h : HandlerSlot) : (s.setSlot p h).obs = s.obs := rfl
@[simp] theorem State.setSlot_totalPackets (p : Nat) (h : HandlerSlot) : (s.setSlot p h).totalPackets = s.totalPackets
    := rfl
@[simp] theorem State.setSlot_totalCcErrors (p : Nat) (h : HandlerSlot) : (s.setSlot p h).totalCcErrors = s.totalCcErrors
    := rfl
@[simp] theorem State.setSlot_status (p : Nat) (h : HandlerSlot) : (s.setSlot p h).status = s.status
    := rfl
@[simp] theorem State.setSlot_cmd (p : Nat) (h : HandlerSlot) : (s.setSlot p h).cmd = s.cmd := rfl
@[simp] theorem State.setSlot_evtFailures (p : Nat) (h : HandlerSlot) : (s.setSlot p h).evtFailures = s.evtFailures
    := rfl
@[simp] theorem State.setSlot_rsp (p : Nat) (h : HandlerSlot) : (s.setSlot p h).rsp = s.rsp := rfl
@[simp] theorem State.setSlot_evt (p : Nat) (h : HandlerSlot) : (s.setSlot p h).evt = s.evt := rfl
@[simp] theorem State.setSlot_log (p : Nat) (h : HandlerSlot) : (s.setSlot p h).log = s.log := rfl
@[simp] theorem State.setSlot_accum (p : Nat) (h : HandlerSlot) (q : Nat) : (s.setSlot p h).accum q = s.accum q := rfl
@[simp] theorem State.setSlot_seenBit (p : Nat) (h : HandlerSlot) (q : Nat) : (s.setSlot p h).seenBit q = s.seenBit q := rfl
@[simp] theorem State.setSlot_slot (p : Nat) (h : HandlerSlot) (q : Nat) : (s.setSlot p h).slot q = if q = p then h else s.slot q :=
  Memory.read_write ..
@[simp] theorem State.setSlot_fatal (p : Nat) (h : HandlerSlot) : (s.setSlot p h).fatal = s.fatal := rfl
@[simp] theorem State.setSlot_cause (p : Nat) (h : HandlerSlot) : (s.setSlot p h).cause = s.cause := rfl

/-! ### setFatal -/

@[simp] theorem State.setFatal_params (c : FatalCause) : (s.setFatal c).params = s.params := by
  unfold State.setFatal; split <;> rfl
@[simp] theorem State.setFatal_acc (c : FatalCause) : (s.setFatal c).acc = s.acc := by
  unfold State.setFatal; split <;> rfl
@[simp] theorem State.setFatal_seen (c : FatalCause) : (s.setFatal c).seen = s.seen := by
  unfold State.setFatal; split <;> rfl
@[simp] theorem State.setFatal_handlers (c : FatalCause) : (s.setFatal c).handlers = s.handlers := by
  unfold State.setFatal; split <;> rfl
@[simp] theorem State.setFatal_obs (c : FatalCause) : (s.setFatal c).obs = s.obs := by
  unfold State.setFatal; split <;> rfl
@[simp] theorem State.setFatal_totalPackets (c : FatalCause) : (s.setFatal c).totalPackets = s.totalPackets
    := by
  unfold State.setFatal; split <;> rfl
@[simp] theorem State.setFatal_totalCcErrors (c : FatalCause) : (s.setFatal c).totalCcErrors = s.totalCcErrors
    := by
  unfold State.setFatal; split <;> rfl
@[simp] theorem State.setFatal_status (c : FatalCause) : (s.setFatal c).status = if s.fatal then s.status else statusWith s.status c
    := by
  unfold State.setFatal; split <;> simp_all
@[simp] theorem State.setFatal_cmd (c : FatalCause) : (s.setFatal c).cmd = s.cmd := by
  unfold State.setFatal; split <;> rfl
@[simp] theorem State.setFatal_evtFailures (c : FatalCause) : (s.setFatal c).evtFailures = s.evtFailures
    := by
  unfold State.setFatal; split <;> rfl
@[simp] theorem State.setFatal_rsp (c : FatalCause) : (s.setFatal c).rsp = s.rsp := by
  unfold State.setFatal; split <;> rfl
@[simp] theorem State.setFatal_evt (c : FatalCause) : (s.setFatal c).evt = s.evt := by
  unfold State.setFatal; split <;> rfl
@[simp] theorem State.setFatal_log (c : FatalCause) : (s.setFatal c).log = s.log := by
  unfold State.setFatal; split <;> rfl
@[simp] theorem State.setFatal_accum (c : FatalCause) (q : Nat) : (s.setFatal c).accum q = s.accum q := by
  unfold State.setFatal; split <;> rfl
@[simp] theorem State.setFatal_seenBit (c : FatalCause) (q : Nat) : (s.setFatal c).seenBit q = s.seenBit q := by
  unfold State.setFatal; split <;> rfl
@[simp] theorem State.setFatal_slot (c : FatalCause) (q : Nat) : (s.setFatal c).slot q = s.slot q := by
  unfold State.setFatal; split <;> rfl
@[simp] theorem State.setFatal_fatal (c : FatalCause) : (s.setFatal c).fatal = true := by
  unfold State.setFatal; split
  · assumption
  · exact statusWith_fatal ..
@[simp] theorem State.setFatal_cause (c : FatalCause) : (s.setFatal c).cause = if s.fatal then s.cause else c.code := by
  unfold State.setFatal; split
  · rfl
  · exact statusWith_cause ..

/-! ### resetRegisters -/

@[simp] theorem State.resetRegisters_params : (s.resetRegisters).params = s.params := rfl
@[simp] theorem State.resetRegisters_acc : (s.resetRegisters).acc = [] := rfl
@[simp] theorem State.resetRegisters_seen : (s.resetRegisters).seen = [] := rfl
@[simp] theorem State.resetRegisters_handlers : (s.resetRegisters).handlers = [] := rfl
@[simp] theorem State.resetRegisters_obs : (s.resetRegisters).obs = [] := rfl
@[simp] theorem State.resetRegisters_totalPackets : (s.resetRegisters).totalPackets = 0 := rfl
@[simp] theorem State.resetRegisters_totalCcErrors : (s.resetRegisters).totalCcErrors = 0 := rfl
@[simp] theorem State.resetRegisters_status : (s.resetRegisters).status = 0x00 := rfl
@[simp] theorem State.resetRegisters_cmd : (s.resetRegisters).cmd = s.cmd := rfl
@[simp] theorem State.resetRegisters_evtFailures : (s.resetRegisters).evtFailures = s.evtFailures := rfl
@[simp] theorem State.resetRegisters_rsp : (s.resetRegisters).rsp = s.rsp := rfl
@[simp] theorem State.resetRegisters_evt : (s.resetRegisters).evt = s.evt := rfl
@[simp] theorem State.resetRegisters_log : (s.resetRegisters).log = s.log := rfl
@[simp] theorem State.resetRegisters_accum (q : Nat) : (s.resetRegisters).accum q = Accum.idle := rfl
@[simp] theorem State.resetRegisters_seenBit (q : Nat) : (s.resetRegisters).seenBit q = false := rfl
@[simp] theorem State.resetRegisters_slot (q : Nat) : (s.resetRegisters).slot q = HandlerSlot.empty := rfl
@[simp] theorem State.resetRegisters_fatal : (s.resetRegisters).fatal = false := by
  show (0x00 : BitVec 8).getLsbD 0 = false; decide
@[simp] theorem State.resetRegisters_cause : (s.resetRegisters).cause = 0 := by
  show (0x00 : BitVec 8).extractLsb' 1 2 = 0; decide

/-! ### logFailures -/

@[simp] theorem State.logFailures_params : (s.logFailures).params = s.params := rfl
@[simp] theorem State.logFailures_acc : (s.logFailures).acc = s.acc := rfl
@[simp] theorem State.logFailures_seen : (s.logFailures).seen = s.seen := rfl
@[simp] theorem State.logFailures_handlers : (s.logFailures).handlers = s.handlers := rfl
@[simp] theorem State.logFailures_obs : (s.logFailures).obs = s.obs := rfl
@[simp] theorem State.logFailures_totalPackets : (s.logFailures).totalPackets = s.totalPackets := rfl
@[simp] theorem State.logFailures_totalCcErrors : (s.logFailures).totalCcErrors = s.totalCcErrors := rfl
@[simp] theorem State.logFailures_status : (s.logFailures).status = s.status := rfl
@[simp] theorem State.logFailures_cmd : (s.logFailures).cmd = s.cmd := rfl
@[simp] theorem State.logFailures_evtFailures : (s.logFailures).evtFailures = [] := rfl
@[simp] theorem State.logFailures_rsp : (s.logFailures).rsp = s.rsp := rfl
@[simp] theorem State.logFailures_evt : (s.logFailures).evt = s.evt := rfl
@[simp] theorem State.logFailures_log : (s.logFailures).log = s.log ++ s.evtFailures.map logEntryOf := rfl
@[simp] theorem State.logFailures_accum (q : Nat) : (s.logFailures).accum q = s.accum q := rfl
@[simp] theorem State.logFailures_seenBit (q : Nat) : (s.logFailures).seenBit q = s.seenBit q := rfl
@[simp] theorem State.logFailures_slot (q : Nat) : (s.logFailures).slot q = s.slot q := rfl
@[simp] theorem State.logFailures_fatal : (s.logFailures).fatal = s.fatal := rfl
@[simp] theorem State.logFailures_cause : (s.logFailures).cause = s.cause := rfl

/-! ### takeWord -/

@[simp] theorem State.takeWord_params (rest : List Byte) : (s.takeWord rest).params = s.params := rfl
@[simp] theorem State.takeWord_acc (rest : List Byte) : (s.takeWord rest).acc = s.acc := rfl
@[simp] theorem State.takeWord_seen (rest : List Byte) : (s.takeWord rest).seen = s.seen := rfl
@[simp] theorem State.takeWord_handlers (rest : List Byte) : (s.takeWord rest).handlers = s.handlers
    := rfl
@[simp] theorem State.takeWord_obs (rest : List Byte) : (s.takeWord rest).obs = s.obs := rfl
@[simp] theorem State.takeWord_totalPackets (rest : List Byte) : (s.takeWord rest).totalPackets = s.totalPackets
    := rfl
@[simp] theorem State.takeWord_totalCcErrors (rest : List Byte) : (s.takeWord rest).totalCcErrors = s.totalCcErrors
    := rfl
@[simp] theorem State.takeWord_status (rest : List Byte) : (s.takeWord rest).status = s.status := rfl
@[simp] theorem State.takeWord_cmd (rest : List Byte) : (s.takeWord rest).cmd = rest := rfl
@[simp] theorem State.takeWord_evtFailures (rest : List Byte) : (s.takeWord rest).evtFailures = s.evtFailures
    := rfl
@[simp] theorem State.takeWord_rsp (rest : List Byte) : (s.takeWord rest).rsp = s.rsp := rfl
@[simp] theorem State.takeWord_evt (rest : List Byte) : (s.takeWord rest).evt = s.evt := rfl
@[simp] theorem State.takeWord_log (rest : List Byte) : (s.takeWord rest).log = s.log := rfl
@[simp] theorem State.takeWord_accum (rest : List Byte) (q : Nat) : (s.takeWord rest).accum q = s.accum q := rfl
@[simp] theorem State.takeWord_seenBit (rest : List Byte) (q : Nat) : (s.takeWord rest).seenBit q = s.seenBit q := rfl
@[simp] theorem State.takeWord_slot (rest : List Byte) (q : Nat) : (s.takeWord rest).slot q = s.slot q := rfl
@[simp] theorem State.takeWord_fatal (rest : List Byte) : (s.takeWord rest).fatal = s.fatal := rfl
@[simp] theorem State.takeWord_cause (rest : List Byte) : (s.takeWord rest).cause = s.cause := rfl

end Sys2Proof.Machine
end

