-- ==== Sys2Proof/Laws/Ops.lean ====
section
/-!
SUPPORT. For each shared operation, once, everything it can do: provers cite these lemmas instead of unfolding the operation.
-/

namespace Sys2Proof.Machine

open Sys2Proof Sys2Proof.Config

theorem Memory.read_write_accum (s : State) (p q : Nat) (a : Accum) :
    (s.setAccum p a).accum q = if q = p then a else s.accum q := State.setAccum_accum ..

/-- R30, R31: an identifier that fits is held whole. -/
theorem identifier_of_fits {p : Params} {v : BitVec 16} (h : v.toNat < 2 ^ p.idW) : identifier p v = v := if_pos h

/-- R30, R31: what an identifier register holds is within `ID_W` bits. -/
theorem identifier_lt (p : Params) (v : BitVec 16) : (identifier p v).toNat < 2 ^ p.idW := by
  unfold identifier
  split
  · assumption
  · rw [BitVec.toNat_ofNat]
    exact Nat.lt_of_le_of_lt (Nat.mod_le ..) (Nat.mod_lt _ (Nat.two_pow_pos _))

/-- R146, R149: a section always goes through the tables. -/
@[simp] theorem dispatchRecords_section (s : State) (p : BitVec 13) (bytes : List Byte) :
    dispatchRecords s p (.sectionComplete bytes) = tableRecords s p (.sectionComplete bytes) := rfl

/-- R149: a continuity error goes through the tables, or is broadcast. -/
theorem dispatchRecords_ccError (s : State) (p : BitVec 13) (a b c : BitVec 4) :
    dispatchRecords s p (.continuityError a b c) =
      if s.params.ccErrRouting = .broadcastOnly then [broadcastRecord p (.continuityError a b c)]
      else tableRecords s p (.continuityError a b c) := by
  unfold dispatchRecords
  cases h : s.params.ccErrRouting <;> rfl

/-- What the AwaitingStart handling can do (R121, R122, R132, R133). -/
theorem awaitingStart_cases (s : State) (p : Nat) (f : Framed) :
    ((s.accum p).buf ≠ [] ∧ awaitingStart s p f = (s.setFatal .invariantViolation, .fatal)) ∨
    ((s.accum p).buf = [] ∧ f.pusi = true ∧ overflows s.params f.main.length = true ∧
      awaitingStart s p f = (s.setFatal .bufferOverflow, .fatal)) ∨
    ((s.accum p).buf = [] ∧ f.pusi = true ∧ overflows s.params f.main.length = false ∧
      awaitingStart s p f = (s.setAccum p (startedAccum s.params f), .ok)) ∨
    ((s.accum p).buf = [] ∧ f.pusi = false ∧ awaitingStart s p f = (s, .ok)) := by
  by_cases hb : (s.accum p).buf = []
  · cases hp : f.pusi <;> cases ho : overflows s.params f.main.length <;>
      simp [awaitingStart, endFatal, hb, hp, ho]
  · exact .inl ⟨hb, by simp [awaitingStart, endFatal, hb]⟩

/-- What an append can do (R125, R133). -/
theorem appendPacket_cases (s : State) (f : Framed) :
    (overflows s.params ((s.accum f.pid.toNat).buf.length + f.main.length) = true ∧
      appendPacket s f = (s.setFatal .bufferOverflow, .fatal)) ∨
    (overflows s.params ((s.accum f.pid.toNat).buf.length + f.main.length) = false ∧
      appendPacket s f =
        (s.setAccum f.pid.toNat (appendedAccum s.params (s.accum f.pid.toNat) f), .ok)) := by
  cases h : overflows s.params ((s.accum f.pid.toNat).buf.length + f.main.length) <;>
    simp [appendPacket, endFatal, h]

/-- What a step of an accumulator can do (R120, R135). -/
theorem accStep_cases (s : State) (f : Framed) :
    ((s.accum f.pid.toNat).state = .awaitingStart ∧ accStep s f = awaitingStart s f.pid.toNat f) ∨
    (∃ prev, (s.accum f.pid.toNat).state = .accumulating prev ∧ f.cc ≠ prev + 1 ∧
      accStep s f = continuityBroken s prev f) ∨
    (∃ prev, (s.accum f.pid.toNat).state = .accumulating prev ∧ f.cc = prev + 1 ∧ f.pusi = true ∧
      accStep s f = completeSection s f) ∨
    (∃ prev, (s.accum f.pid.toNat).state = .accumulating prev ∧ f.cc = prev + 1 ∧ f.pusi = false ∧
      accStep s f = appendPacket s f) := by
  cases h : (s.accum f.pid.toNat).state with
  | awaitingStart => exact .inl ⟨rfl, by simp [accStep, h]⟩
  | accumulating prev =>
    by_cases hc : f.cc = prev + 1
    · cases hp : f.pusi
      · exact .inr (.inr (.inr ⟨prev, rfl, hc, rfl, by simp [accStep, h, hc, hp]⟩))
      · exact .inr (.inr (.inl ⟨prev, rfl, hc, rfl, by simp [accStep, h, hc, hp]⟩))
    · exact .inr (.inl ⟨prev, rfl, hc, by simp only [accStep, h]; rw [if_pos hc]⟩)

/-- What routing an accepted packet can do (R142 to R145). -/
theorem routePacket_cases (s : State) (f : Framed) :
    (f.pid = NULL_PID ∧ routePacket s f = (s.countPacket, .ok)) ∨
    (f.pid ≠ NULL_PID ∧ routePacket s f = accStep (s.countPacket.setSeen f.pid.toNat) f) := by
  by_cases h : f.pid = NULL_PID
  · exact .inl ⟨h, by simp [routePacket, h]⟩
  · exact .inr ⟨h, by simp [routePacket, h]⟩

/-- What an ACCEPT can do, given what framing gives (R140, R141). -/
theorem acceptFramed_cases (s : State) (r : Except Status Framed) :
    (s.fatal = true ∧ acceptFramed s r = s.raise .fatal) ∨
    (s.fatal = false ∧ ∃ e, r = .error e ∧ acceptFramed s r = s.raise e) ∨
    (s.fatal = false ∧ ∃ f, r = .ok f ∧ acceptFramed s r = (routePacket s f).1.raise (routePacket s f).2) := by
  cases hf : s.fatal
  · cases r with
    | error e => exact .inr (.inl ⟨rfl, e, rfl, by simp [acceptFramed, hf]⟩)
    | ok f => exact .inr (.inr ⟨rfl, f, rfl, by simp [acceptFramed, hf]⟩)
  · exact .inl ⟨rfl, by simp [acceptFramed, hf]⟩

/-- What a register read can answer (R93, R181, R182). -/
theorem readAnswer_cases (s : State) (v : Option Nat) :
    (∃ n, v = some n ∧ readAnswer s v = s.respond .ok (beBytes 8 n)) ∨
    (v = none ∧ readAnswer s v = s.raise .badOperand) := by
  cases v with
  | none => exact .inr ⟨rfl, rfl⟩
  | some n => exact .inl ⟨n, rfl, rfl⟩

/-- What SECHDR_PARSE can answer (R160). -/
theorem parseAnswer_cases (s : State) (pid16 : BitVec 16) (r : Except Status Header) :
    (pidBad pid16 = true ∧ parseAnswer s pid16 r = s.raise .badOperand) ∨
    (pidBad pid16 = false ∧ ∃ e, r = .error e ∧ parseAnswer s pid16 r = s.raise e) ∨
    (pidBad pid16 = false ∧ ∃ h, r = .ok h ∧ parseAnswer s pid16 r = s.respond .ok (h.pack pid16)) := by
  cases hp : pidBad pid16
  · cases r with
    | error e => exact .inr (.inl ⟨rfl, e, rfl, by simp [parseAnswer, hp]⟩)
    | ok h => exact .inr (.inr ⟨rfl, h, rfl, by simp [parseAnswer, hp]⟩)
  · exact .inl ⟨rfl, by simp [parseAnswer, hp]⟩

/-- What SECHDR_GET can answer (R170). -/
theorem getAnswer_cases (s : State) (pid16 : BitVec 16) (sec : List Byte) (field : Header → Option (BitVec 16)) :
    (pidBad pid16 = true ∧ getAnswer s pid16 sec field = s.raise .badOperand) ∨
    (pidBad pid16 = false ∧ ∃ e, hdr sec = .error e ∧ getAnswer s pid16 sec field = s.raise e) ∨
    (pidBad pid16 = false ∧ ∃ h, hdr sec = .ok h ∧ field h = none ∧
      getAnswer s pid16 sec field = s.raise .invalidState) ∨
    (pidBad pid16 = false ∧ ∃ h v, hdr sec = .ok h ∧ field h = some v ∧
      getAnswer s pid16 sec field = s.respond .ok (word16 v)) := by
  cases hp : pidBad pid16
  · cases hh : hdr sec with
    | error e => exact .inr (.inl ⟨rfl, e, rfl, by simp [getAnswer, hp, hh]⟩)
    | ok h =>
      cases hf : field h with
      | none => exact .inr (.inr (.inl ⟨rfl, h, rfl, hf, by simp [getAnswer, hp, hh, hf]⟩))
      | some v => exact .inr (.inr (.inr ⟨rfl, h, v, rfl, hf, by simp [getAnswer, hp, hh, hf]⟩))
  · exact .inl ⟨rfl, by simp [getAnswer, hp]⟩

/-- The header decode fails in one way only (R160). -/
theorem hdr_error {sec : List Byte} {e : Status} (h : hdr sec = .error e) : e = .sectionTruncated := by
  unfold hdr at h
  split at h
  · split at h
    · unfold longHeader at h
      split at h
      · cases h
      · cases h; rfl
    · cases h
  · cases h; rfl

/-- A PID operand is in range exactly when it is at most 0x1FFF (R73). -/
theorem pidBad_iff (pid16 : BitVec 16) : pidBad pid16 = false ↔ pid16.toNat ≤ 0x1FFF := by
  have h := pid16.isLt
  have hv : (pid16.extractLsb' 13 3).toNat = pid16.toNat / 8192 := by
    simp only [BitVec.extractLsb'_toNat, Nat.shiftRight_eq_div_pow]
    omega
  unfold pidBad
  rw [bne_eq_false_iff_eq, ← BitVec.toNat_inj, hv]
  simp only [BitVec.ofNat_eq_ofNat, BitVec.toNat_ofNat]
  omega

/-- What a fetch can find (00_scope.md R7, 30_encoding.md R81). -/
theorem fetch_cases (s : State) :
    (decode s.cmd = .incomplete ∧ fetch s = .idle s.logFailures) ∨
    (∃ rest, decode s.cmd = .badCommand rest ∧
      fetch s = .rejected (s.logFailures.takeWord rest) .badCommand) ∨
    (∃ rest, decode s.cmd = .badSelector rest ∧
      fetch s = .rejected (s.logFailures.takeWord rest) .badOperand) ∨
    (∃ i rest, decode s.cmd = .instr i rest ∧ fetch s = .run i (s.logFailures.takeWord rest)) := by
  unfold fetch
  cases h : decode s.cmd with
  | incomplete => exact .inl ⟨rfl, rfl⟩
  | badCommand rest => exact .inr (.inl ⟨rest, rfl, rfl⟩)
  | badSelector rest => exact .inr (.inr (.inl ⟨rest, rfl, rfl⟩))
  | instr i rest => exact .inr (.inr (.inr ⟨i, rest, rfl, rfl⟩))

end Sys2Proof.Machine
end

