-- ==== Sys2Proof/Laws/PerInstr.lean ====
section
/-!
SUPPORT. A statement about every instruction, proved per instruction: the length of its word is told by its head (R71, R95).
-/

namespace Sys2Proof.Laws

open Sys2Proof

/-- The word of a well-formed instruction is as long as its head says, whatever follows it on CMD. -/
def WordLength.Statement (i : Instr) : Prop :=
  i.wellFormed = true → ∀ rest : List Byte, wordLength (encode i ++ rest) = some (encode i).length

theorem wordLength_packet (p : Bytes 188) (rest : List Byte) :
    wordLength (0x01 :: p.data ++ rest) = some (0x01 :: p.data).length := by
  simp [wordLength, p.size]

theorem wordLength_parse (pid16 : BitVec 16) (sec rest : List Byte) (h : sec.length < 2 ^ 32) :
    wordLength (0x10 :: secOperands pid16 sec ++ rest) = some (0x10 :: secOperands pid16 sec).length := by
  simp only [secOperands, word16_eq, beBytes_four, List.cons_append, List.nil_append, wordLength, be32_beBytes h,
    List.length_cons]
  simp; omega

theorem wordLength_get (sel : Byte) (pid16 : BitVec 16) (sec rest : List Byte) (h : sec.length < 2 ^ 32) :
    wordLength (0x11 :: sel :: secOperands pid16 sec ++ rest) = some (0x11 :: sel :: secOperands pid16 sec).length := by
  simp only [secOperands, word16_eq, beBytes_four, List.cons_append, List.nil_append, wordLength, be32_beBytes h,
    List.length_cons]
  simp; omega

theorem sectionOf_length (b : Bool) (h : SecHead) (rest : List Byte) :
    (sectionOf b h rest).length = rest.length + 3 := rfl

theorem fits {n : Nat} (h : secFits n = true) : n < 2 ^ 32 := of_decide_eq_true h

theorem WordLength.accept (pkt : Bytes 188) : WordLength.Statement (.accept pkt) :=
  fun _ => wordLength_packet pkt
theorem WordLength.registerHandler (pid16 h16 : BitVec 16) : WordLength.Statement (.registerHandler pid16 h16) :=
  fun _ _ => rfl
theorem WordLength.unregisterHandler (pid16 : BitVec 16) : WordLength.Statement (.unregisterHandler pid16) :=
  fun _ _ => rfl
theorem WordLength.addObserver (o16 : BitVec 16) : WordLength.Statement (.addObserver o16) := fun _ _ => rfl
theorem WordLength.readCsr (n8 : Byte) : WordLength.Statement (.readCsr n8) := fun _ _ => rfl
theorem WordLength.readAcc (pid16 : BitVec 16) (sel8 : Byte) : WordLength.Statement (.readAcc pid16 sel8) :=
  fun _ _ => rfl
theorem WordLength.sechdrParse (pid16 : BitVec 16) (sec : List Byte) : WordLength.Statement (.sechdrParse pid16 sec) :=
  fun h rest => wordLength_parse pid16 sec rest (fits h)
theorem WordLength.sechdrGetTableId (pid16 : BitVec 16) (sec : List Byte) :
    WordLength.Statement (.sechdrGetTableId pid16 sec) := fun h rest => wordLength_get 0 pid16 sec rest (fits h)
theorem WordLength.sechdrGetSyntaxIndicator (pid16 : BitVec 16) (sec : List Byte) :
    WordLength.Statement (.sechdrGetSyntaxIndicator pid16 sec) := fun h rest => wordLength_get 1 pid16 sec rest (fits h)
theorem WordLength.sechdrGetSectionLength (pid16 : BitVec 16) (sec : List Byte) :
    WordLength.Statement (.sechdrGetSectionLength pid16 sec) := fun h rest => wordLength_get 2 pid16 sec rest (fits h)
theorem WordLength.sechdrGetTableIdExtension (pid16 : BitVec 16) (sec : List Byte) :
    WordLength.Statement (.sechdrGetTableIdExtension pid16 sec) := fun h rest => wordLength_get 3 pid16 sec rest (fits h)
theorem WordLength.sechdrGetVersionNumber (pid16 : BitVec 16) (sec : List Byte) :
    WordLength.Statement (.sechdrGetVersionNumber pid16 sec) := fun h rest => wordLength_get 4 pid16 sec rest (fits h)
theorem WordLength.sechdrGetCurrentNext (pid16 : BitVec 16) (sec : List Byte) :
    WordLength.Statement (.sechdrGetCurrentNext pid16 sec) := fun h rest => wordLength_get 5 pid16 sec rest (fits h)
theorem WordLength.sechdrGetSectionNumber (pid16 : BitVec 16) (sec : List Byte) :
    WordLength.Statement (.sechdrGetSectionNumber pid16 sec) := fun h rest => wordLength_get 6 pid16 sec rest (fits h)
theorem WordLength.sechdrGetLastSectionNumber (pid16 : BitVec 16) (sec : List Byte) :
    WordLength.Statement (.sechdrGetLastSectionNumber pid16 sec) := fun h rest => wordLength_get 7 pid16 sec rest (fits h)
theorem WordLength.sechdrGetBodyOffset (pid16 : BitVec 16) (sec : List Byte) :
    WordLength.Statement (.sechdrGetBodyOffset pid16 sec) := fun h rest => wordLength_get 8 pid16 sec rest (fits h)
theorem WordLength.reset : WordLength.Statement .reset := fun _ _ => rfl
theorem WordLength.tsTei (low7 : BitVec 7) (rest : Bytes 186) : WordLength.Statement (.tsTei low7 rest) :=
  fun _ => wordLength_packet (packetOfTei low7 rest)
theorem WordLength.tsP (hdr : TsHeader) (body : Bytes 184) : WordLength.Statement (.tsP hdr body) :=
  fun _ => wordLength_packet (packetOf false false hdr body)
theorem WordLength.tsAp (hdr : TsHeader) (body : Bytes 184) : WordLength.Statement (.tsAp hdr body) :=
  fun _ => wordLength_packet (packetOf false true hdr body)
theorem WordLength.tsSp (hdr : TsHeader) (body : Bytes 184) : WordLength.Statement (.tsSp hdr body) :=
  fun _ => wordLength_packet (packetOf true false hdr body)
theorem WordLength.tsAsp (hdr : TsHeader) (body : Bytes 184) : WordLength.Statement (.tsAsp hdr body) :=
  fun _ => wordLength_packet (packetOf true true hdr body)
theorem WordLength.tsBadsync (pkt : Bytes 188) : WordLength.Statement (.tsBadsync pkt) :=
  fun _ => wordLength_packet pkt
theorem WordLength.shLong (pid16 : BitVec 16) (head : SecHead) (rest : List Byte) :
    WordLength.Statement (.shLong pid16 head rest) :=
  fun h r => wordLength_parse pid16 (sectionOf true head rest) r (by rw [sectionOf_length]; exact fits h)
theorem WordLength.shShort (pid16 : BitVec 16) (head : SecHead) (rest : List Byte) :
    WordLength.Statement (.shShort pid16 head rest) :=
  fun h r => wordLength_parse pid16 (sectionOf false head rest) r (by rw [sectionOf_length]; exact fits h)

end Sys2Proof.Laws
end

