-- ==== Sys2Proof/Laws/Step.lean ====
section
/-!
SUPPORT. Once, everything an accepted packet, an instruction and a step can do, as inductive predicates: a proof about every
step is a case analysis of `Stepped`, `Executed` and `Routed`, with no unfolding.
-/

namespace Sys2Proof.Machine

open Sys2Proof Sys2Proof.Config

/-- The records of a dispatch depend on the tables alone. -/
theorem tableRecords_congr {s t : State} (ho : t.obs = s.obs) (hs : t.handlers = s.handlers) (p : BitVec 13)
    (e : Event) : tableRecords t p e = tableRecords s p e := by
  simp only [tableRecords, State.slot, ho, hs]
  rfl

/-- The records of an event depend on the tables and the parameters alone. -/
theorem dispatchRecords_congr {s t : State} (hp : t.params = s.params) (ho : t.obs = s.obs)
    (hs : t.handlers = s.handlers) (p : BitVec 13) (e : Event) :
    dispatchRecords t p e = dispatchRecords s p e := by
  simp only [dispatchRecords, hp, tableRecords_congr ho hs]

/-- The state in which an accumulator takes a packet of PID `p`: the packet counted, the PID seen. -/
def State.counted (s : State) (p : Nat) : State := s.countPacket.setSeen p

/-- After the AwaitingStart handling of a cleared accumulator, in state `v`: nothing, a section started, or the bound
passed. -/
inductive Reoffered (v : State) (f : Framed) : State → Status → Prop where
  | ignored : f.pusi = false → Reoffered v f v .ok
  | started : f.pusi = true → overflows v.params f.main.length = false →
      Reoffered v f (v.setAccum f.pid.toNat (startedAccum v.params f)) .ok
  | tooLong : f.pusi = true → overflows v.params f.main.length = true →
      Reoffered v f (v.setFatal .bufferOverflow) .fatal

/-- What routing an accepted packet `f` can leave, and with what status (R142 to R145, R120). -/
inductive Routed (s : State) (f : Framed) : State → Status → Prop where
  | null : f.pid = NULL_PID → Routed s f s.countPacket .ok
  | broken : f.pid ≠ NULL_PID → (s.accum f.pid.toNat).state = .awaitingStart →
      (s.accum f.pid.toNat).buf ≠ [] →
      Routed s f ((s.counted f.pid.toNat).setFatal .invariantViolation) .fatal
  | awaiting (t : State) (st : Status) : f.pid ≠ NULL_PID → (s.accum f.pid.toNat).state = .awaitingStart →
      (s.accum f.pid.toNat).buf = [] → Reoffered (s.counted f.pid.toNat) f t st → Routed s f t st
  | wrongCounter (prev : BitVec 4) (t : State) (st : Status) : f.pid ≠ NULL_PID →
      (s.accum f.pid.toNat).state = .accumulating prev → f.cc ≠ prev + 1 →
      Reoffered (((s.counted f.pid.toNat).countCcError.dispatch f.pid
        (.continuityError prev (prev + 1) f.cc)).clearAccum f.pid.toNat) f t st → Routed s f t st
  | completed (prev : BitVec 4) (t : State) (st : Status) : f.pid ≠ NULL_PID →
      (s.accum f.pid.toNat).state = .accumulating prev → f.cc = prev + 1 → f.pusi = true →
      Reoffered (((s.counted f.pid.toNat).dispatch f.pid
        (.sectionComplete ((s.accum f.pid.toNat).buf ++ f.tail))).clearAccum f.pid.toNat) f t st → Routed s f t st
  | appended (prev : BitVec 4) : f.pid ≠ NULL_PID →
      (s.accum f.pid.toNat).state = .accumulating prev → f.cc = prev + 1 → f.pusi = false →
      overflows s.params ((s.accum f.pid.toNat).buf.length + f.main.length) = false →
      Routed s f ((s.counted f.pid.toNat).setAccum f.pid.toNat
        (appendedAccum s.params (s.accum f.pid.toNat) f)) .ok
  | appendTooLong (prev : BitVec 4) : f.pid ≠ NULL_PID →
      (s.accum f.pid.toNat).state = .accumulating prev → f.cc = prev + 1 → f.pusi = false →
      overflows s.params ((s.accum f.pid.toNat).buf.length + f.main.length) = true →
      Routed s f ((s.counted f.pid.toNat).setFatal .bufferOverflow) .fatal

theorem awaitingStart_reoffered {v : State} {f : Framed} (h : (v.accum f.pid.toNat).buf = []) :
    Reoffered v f (awaitingStart v f.pid.toNat f).1 (awaitingStart v f.pid.toNat f).2 := by
  rcases awaitingStart_cases v f.pid.toNat f with ⟨hb, _⟩ | ⟨_, hp, ho, he⟩ | ⟨_, hp, ho, he⟩ | ⟨_, hp, he⟩
  · exact absurd h hb
  · rw [he]; exact .tooLong hp ho
  · rw [he]; exact .started hp ho
  · rw [he]; exact .ignored hp

/-- Routing does one of the things `Routed` lists. -/
theorem routePacket_routed (s : State) (f : Framed) :
    Routed s f (routePacket s f).1 (routePacket s f).2 := by
  rcases routePacket_cases s f with ⟨h, he⟩ | ⟨hn, he⟩
  · rw [he]; exact .null h
  · rw [he]
    have ha : (s.countPacket.setSeen f.pid.toNat).accum f.pid.toNat = s.accum f.pid.toNat := by simp
    have hc : ∀ v : State, ((v.clearAccum f.pid.toNat).accum f.pid.toNat).buf = [] := by
      intro v; simp [State.clearAccum, Accum.idle]
    rcases accStep_cases (s.countPacket.setSeen f.pid.toNat) f with
      ⟨hs, he⟩ | ⟨prev, hs, hcc, he⟩ | ⟨prev, hs, hcc, hu, he⟩ | ⟨prev, hs, hcc, hu, he⟩ <;> rw [he] <;> rw [ha] at hs
    · by_cases hb : (s.accum f.pid.toNat).buf = []
      · exact .awaiting _ _ hn hs hb (awaitingStart_reoffered (show ((s.countPacket.setSeen f.pid.toNat).accum f.pid.toNat).buf = [] by
          rw [ha]; exact hb))
      · have : awaitingStart (s.countPacket.setSeen f.pid.toNat) f.pid.toNat f =
            ((s.counted f.pid.toNat).setFatal .invariantViolation, .fatal) := by
          rw [awaitingStart, ha, if_pos hb]; rfl
        rw [this]; exact .broken hn hs hb
    · exact .wrongCounter prev _ _ hn hs hcc (awaitingStart_reoffered (hc _))
    · refine .completed prev _ _ hn hs hcc hu ?_
      have := awaitingStart_reoffered (f := f) (hc ((s.counted f.pid.toNat).dispatch f.pid
        (.sectionComplete ((s.accum f.pid.toNat).buf ++ f.tail))))
      unfold completeSection; rw [ha]; exact this
    · rcases appendPacket_cases (s.countPacket.setSeen f.pid.toNat) f with ⟨ho, he⟩ | ⟨ho, he⟩ <;> rw [he] <;> rw [ha] at ho
      · exact .appendTooLong prev hn hs hcc hu ho
      · rw [ha]; exact .appended prev hn hs hcc hu ho

/-- The framer's result for an instruction that is an ACCEPT, of whatever form. -/
def framing : Instr → Option (Except Status Framed)
  | .accept p => some (frame p)
  | .tsTei _ _ => some (.error .transportError)
  | .tsP h body => some (framePlain h body)
  | .tsAp h body => some (frameAdaptation h body)
  | .tsSp h body => some (framePointer h false body 0)
  | .tsAsp h body => some (framePointer h true body (1 + (body.get 0 (by decide)).toNat))
  | .tsBadsync _ => some (.error .badSync)
  | _ => none

/-- What an instruction can do. -/
inductive Executed (i : Instr) (s : State) : State → Prop where
  | answered (st : Status) (data : List Byte) : st ≠ .fatal → (st ≠ .ok → data = []) →
      (∀ f, framing i ≠ some (.ok f)) → i ≠ .reset → Executed i s (s.respond st data)
  | refused : s.fatal = true → i ≠ .reset → Executed i s (s.raise .fatal)
  | registered (p : Nat) (h : HandlerSlot) : s.fatal = false → p ≤ 0x1FFF →
      (h.hid.toNat < 2 ^ s.params.idW ∨ h.hid = (s.slot p).hid) → framing i = none → i ≠ .reset →
      Executed i s ((s.setSlot p h).raise .ok)
  | observed (o : BitVec 16) : s.fatal = false → s.obs.length ≠ s.params.nObsMax → o.toNat < 2 ^ s.params.idW →
      framing i = none → i ≠ .reset → Executed i s (State.raise { s with obs := s.obs ++ [o] } .ok)
  | routed (f : Framed) (t : State) (st : Status) : s.fatal = false → framing i = some (.ok f) →
      Routed s f t st → Executed i s (t.raise st)
  | reset : i = .reset → Executed i s (s.resetRegisters.raise .ok)

theorem frame_error_status {p : Bytes 188} {e : Status} (h : frame p = .error e) : e ≠ .fatal := by
  have hu : ∀ off, frameUnitStart p off ≠ .error .fatal := by
    intro off hx
    unfold frameUnitStart at hx
    split at hx
    · cases hx
    · dsimp only at hx; split at hx <;> cases hx
  rintro rfl
  unfold frame at h
  dsimp only at h
  split at h
  · cases h
  split at h
  · cases h
  split at h
  · cases h
  split at h
  · next he =>
    cases h
    split at he
    · exact hu _ he
    · cases he
  · cases h

theorem framePointer_error_status {h : TsHeader} {a : Bool} {body : Bytes 184} {k : Nat} {e : Status}
    (he : framePointer h a body k = .error e) : e ≠ .fatal := by
  unfold framePointer at he
  split at he
  · dsimp only at he; split at he <;> cases he; decide
  · cases he; decide

theorem acceptFramed_executed {i : Instr} {s : State} {r : Except Status Framed} (hi : framing i = some r)
    (hr : ∀ e, r = .error e → e ≠ .fatal) : Executed i s (acceptFramed s r) := by
  have hn : i ≠ .reset := by rintro rfl; cases hi
  rcases acceptFramed_cases s r with ⟨hf, he⟩ | ⟨hf, e, hr', he⟩ | ⟨hf, f, hr', he⟩ <;> rw [he]
  · exact .refused hf hn
  · exact .answered e [] (hr e hr') (fun _ => rfl) (by rw [hi, hr']; simp) hn
  · exact .routed f _ _ hf (by rw [hi, hr']) (routePacket_routed s f)

theorem parseAnswer_executed {i : Instr} {s : State} (pid16 : BitVec 16) {r : Except Status Header}
    (hi : framing i = none) (hn : i ≠ .reset) (hr : ∀ e, r = .error e → e ≠ .fatal) :
    Executed i s (parseAnswer s pid16 r) := by
  rcases parseAnswer_cases s pid16 r with ⟨_, he⟩ | ⟨_, e, hr', he⟩ | ⟨_, h, _, he⟩ <;> rw [he]
  · exact .answered _ [] (by decide) (fun _ => rfl) (by simp [hi]) hn
  · exact .answered _ [] (hr e hr') (fun _ => rfl) (by simp [hi]) hn
  · exact .answered _ _ (by decide) (fun h => absurd rfl h) (by simp [hi]) hn

theorem getAnswer_executed {i : Instr} {s : State} (pid16 : BitVec 16) (sec : List Byte)
    (field : Header → Option (BitVec 16)) (hi : framing i = none) (hn : i ≠ .reset) :
    Executed i s (getAnswer s pid16 sec field) := by
  rcases getAnswer_cases s pid16 sec field with ⟨_, he⟩ | ⟨_, e, hr', he⟩ | ⟨_, h, _, _, he⟩ | ⟨_, h, v, _, _, he⟩ <;>
    rw [he]
  · exact .answered _ [] (by decide) (fun _ => rfl) (by simp [hi]) hn
  · exact .answered _ [] (by rw [hdr_error hr']; decide) (fun _ => rfl) (by simp [hi]) hn
  · exact .answered _ [] (by decide) (fun _ => rfl) (by simp [hi]) hn
  · exact .answered _ _ (by decide) (fun h => absurd rfl h) (by simp [hi]) hn

theorem readAnswer_executed {i : Instr} {s : State} (v : Option Nat) (hi : framing i = none) (hn : i ≠ .reset) :
    Executed i s (readAnswer s v) := by
  rcases readAnswer_cases s v with ⟨n, _, he⟩ | ⟨_, he⟩ <;> rw [he]
  · exact .answered _ _ (by decide) (fun h => absurd rfl h) (by simp [hi]) hn
  · exact .answered _ [] (by decide) (fun _ => rfl) (by simp [hi]) hn

/-- Every instruction answers a next state, and does one of the things `Executed` lists. -/
theorem exec_executed (i : Instr) (s : State) : ∃ t, exec i s = .next t ∧ Executed i s t := by
  have hh : ∀ sec e, hdr sec = .error e → e ≠ Status.fatal := fun sec e h => by rw [hdr_error h]; decide
  cases i with
  | accept p => exact ⟨_, rfl, acceptFramed_executed rfl fun e h => frame_error_status h⟩
  | registerHandler pid16 h16 =>
    refine ⟨_, rfl, ?_⟩
    split
    · exact .answered _ [] (by decide) (fun _ => rfl) (by simp [framing]) (by simp)
    · next hb =>
      split
      · next hf => exact .refused hf (by simp)
      · next hf =>
        have hp := (pidBad_iff pid16).1 (by simpa using hb)
        exact .registered _ _ (by simpa using hf) hp (.inl (identifier_lt ..)) rfl (by simp)
  | unregisterHandler pid16 =>
    refine ⟨_, rfl, ?_⟩
    split
    · exact .answered _ [] (by decide) (fun _ => rfl) (by simp [framing]) (by simp)
    · next hb =>
      split
      · next hf => exact .refused hf (by simp)
      · next hf =>
        have hp := (pidBad_iff pid16).1 (by simpa using hb)
        exact .registered _ _ (by simpa using hf) hp (.inr rfl) rfl (by simp)
  | addObserver o16 =>
    refine ⟨_, rfl, ?_⟩
    split
    · next hf => exact .refused hf (by simp)
    · next hf =>
      split
      · exact .answered _ [] (by decide) (fun _ => rfl) (by simp [framing]) (by simp)
      · next ho => exact .observed _ (by simpa using hf) ho (identifier_lt ..) rfl (by simp)
  | readCsr n8 => exact ⟨_, rfl, readAnswer_executed _ rfl (by simp)⟩
  | readAcc pid16 sel8 =>
    refine ⟨_, rfl, ?_⟩
    split
    · exact .answered _ [] (by decide) (fun _ => rfl) (by simp [framing]) (by simp)
    · exact readAnswer_executed _ rfl (by simp)
  | sechdrParse pid16 sec => exact ⟨_, rfl, parseAnswer_executed _ rfl (by simp) (hh sec)⟩
  | sechdrGetTableId pid16 sec => exact ⟨_, rfl, getAnswer_executed _ _ _ rfl (by simp)⟩
  | sechdrGetSyntaxIndicator pid16 sec => exact ⟨_, rfl, getAnswer_executed _ _ _ rfl (by simp)⟩
  | sechdrGetSectionLength pid16 sec => exact ⟨_, rfl, getAnswer_executed _ _ _ rfl (by simp)⟩
  | sechdrGetTableIdExtension pid16 sec => exact ⟨_, rfl, getAnswer_executed _ _ _ rfl (by simp)⟩
  | sechdrGetVersionNumber pid16 sec => exact ⟨_, rfl, getAnswer_executed _ _ _ rfl (by simp)⟩
  | sechdrGetCurrentNext pid16 sec => exact ⟨_, rfl, getAnswer_executed _ _ _ rfl (by simp)⟩
  | sechdrGetSectionNumber pid16 sec => exact ⟨_, rfl, getAnswer_executed _ _ _ rfl (by simp)⟩
  | sechdrGetLastSectionNumber pid16 sec => exact ⟨_, rfl, getAnswer_executed _ _ _ rfl (by simp)⟩
  | sechdrGetBodyOffset pid16 sec => exact ⟨_, rfl, getAnswer_executed _ _ _ rfl (by simp)⟩
  | reset => exact ⟨_, rfl, .reset rfl⟩
  | tsTei low7 rest => exact ⟨_, rfl, acceptFramed_executed rfl fun e h => by cases h; decide⟩
  | tsP h body => exact ⟨_, rfl, acceptFramed_executed rfl fun e h => by cases h⟩
  | tsAp h body =>
    refine ⟨_, rfl, acceptFramed_executed rfl fun e h => ?_⟩
    unfold frameAdaptation at h; dsimp only at h; split at h <;> cases h; decide
  | tsSp h body => exact ⟨_, rfl, acceptFramed_executed rfl fun e h => framePointer_error_status h⟩
  | tsAsp h body => exact ⟨_, rfl, acceptFramed_executed rfl fun e h => framePointer_error_status h⟩
  | tsBadsync p => exact ⟨_, rfl, acceptFramed_executed rfl fun e h => by cases h; decide⟩
  | shLong pid16 head rest =>
    refine ⟨_, rfl, parseAnswer_executed _ rfl (by simp) fun e h => ?_⟩
    unfold longHeader at h; split at h <;> cases h; decide
  | shShort pid16 head rest => exact ⟨_, rfl, parseAnswer_executed _ rfl (by simp) fun e h => by cases h⟩

/-- What a step can do. -/
inductive Stepped (s : State) : State → Prop where
  | waited : decode s.cmd = .incomplete → Stepped s s.logFailures
  | rejected (rest : List Byte) (st : Status) : decode s.cmd ≠ .incomplete → (∀ i r, decode s.cmd ≠ .instr i r) →
      st ≠ .ok → st ≠ .fatal → Stepped s ((s.logFailures.takeWord rest).raise st)
  | ran (i : Instr) (rest : List Byte) (t : State) : decode s.cmd = .instr i rest →
      exec i (s.logFailures.takeWord rest) = .next t → Executed i (s.logFailures.takeWord rest) t → Stepped s t

/-- Every step answers a next state, and does one of the things `Stepped` lists. -/
theorem step_stepped (s : State) : ∃ t, step s = .next t ∧ Stepped s t := by
  unfold step
  rcases fetch_cases s with ⟨h, he⟩ | ⟨rest, h, he⟩ | ⟨rest, h, he⟩ | ⟨i, rest, h, he⟩ <;> rw [he]
  · exact ⟨_, rfl, .waited h⟩
  · exact ⟨_, rfl, .rejected rest .badCommand (by simp [h]) (by simp [h]) (by decide) (by decide)⟩
  · exact ⟨_, rfl, .rejected rest .badOperand (by simp [h]) (by simp [h]) (by decide) (by decide)⟩
  · obtain ⟨t, ht, hx⟩ := exec_executed i (s.logFailures.takeWord rest)
    exact ⟨t, ht, .ran i rest t h ht hx⟩

/-- The same of a step whose answer is known. -/
theorem Stepped.of_step {s t : State} (h : step s = .next t) : Stepped s t := by
  obtain ⟨u, hu, hx⟩ := step_stepped s
  rw [h] at hu
  cases hu
  exact hx

/-- The same of an instruction whose answer is known. -/
theorem Executed.of_exec {i : Instr} {s t : State} (h : exec i s = .next t) : Executed i s t := by
  obtain ⟨u, hu, hx⟩ := exec_executed i s
  rw [h] at hu
  cases hu
  exact hx

end Sys2Proof.Machine
end

