-- ==== Sys2Proof/Machine/Listing.lean ====
section
/-!
DEFINITION. The textual notation of commands, spec/30_encoding.md R96. The notation leaves the base of a number open; here a
PID is written in hexadecimal with four digits, every other number in decimal (notes/assumptions/19.md).
-/

namespace Sys2Proof.Machine

open Sys2Proof

/-- A hexadecimal digit. -/
def hexDigit (n : Nat) : String :=
  if n < 10 then toString n
  else match n with
    | 10 => "A" | 11 => "B" | 12 => "C" | 13 => "D" | 14 => "E" | _ => "F"

/-- A byte as a pair of hexadecimal digits. -/
def hexByte (b : Byte) : String := hexDigit (b.toNat / 16) ++ hexDigit (b.toNat % 16)

/-- A byte sequence as pairs of hexadecimal digits. -/
def hexBytes : List Byte → String
  | [] => ""
  | b :: bs => hexByte b ++ hexBytes bs

/-- `pid=P`. -/
def listPid (pid16 : BitVec 16) : String := "pid=0x" ++ hexBytes (word16 pid16)

/-- `SECHDR_GET sel=K, pid=P, sec=S`. -/
def listGet (sel : Nat) (pid16 : BitVec 16) (sec : List Byte) : String :=
  "SECHDR_GET sel=" ++ toString sel ++ ", " ++ listPid pid16 ++ ", sec=" ++ hexBytes sec

/-- R96: the line of a command. -/
def listCommand : Instr → String
  | .accept pkt => "ACCEPT " ++ hexBytes pkt.data
  | .registerHandler pid16 h16 => "REGISTER_HANDLER " ++ listPid pid16 ++ ", h=" ++ toString h16.toNat
  | .unregisterHandler pid16 => "UNREGISTER_HANDLER " ++ listPid pid16
  | .addObserver o16 => "ADD_OBSERVER o=" ++ toString o16.toNat
  | .readCsr n8 => "READ_CSR n=" ++ toString n8.toNat
  | .readAcc pid16 sel8 => "READ_ACC " ++ listPid pid16 ++ ", sel=" ++ toString sel8.toNat
  | .sechdrParse pid16 sec => "SECHDR_PARSE " ++ listPid pid16 ++ ", sec=" ++ hexBytes sec
  | .sechdrGetTableId pid16 sec => listGet 0 pid16 sec
  | .sechdrGetSyntaxIndicator pid16 sec => listGet 1 pid16 sec
  | .sechdrGetSectionLength pid16 sec => listGet 2 pid16 sec
  | .sechdrGetTableIdExtension pid16 sec => listGet 3 pid16 sec
  | .sechdrGetVersionNumber pid16 sec => listGet 4 pid16 sec
  | .sechdrGetCurrentNext pid16 sec => listGet 5 pid16 sec
  | .sechdrGetSectionNumber pid16 sec => listGet 6 pid16 sec
  | .sechdrGetLastSectionNumber pid16 sec => listGet 7 pid16 sec
  | .sechdrGetBodyOffset pid16 sec => listGet 8 pid16 sec
  | .reset => "RESET"
  | .tsTei low7 rest => "ACCEPT " ++ hexBytes (packetOfTei low7 rest).data
  | .tsP h body => "ACCEPT " ++ hexBytes (packetOf false false h body).data
  | .tsAp h body => "ACCEPT " ++ hexBytes (packetOf false true h body).data
  | .tsSp h body => "ACCEPT " ++ hexBytes (packetOf true false h body).data
  | .tsAsp h body => "ACCEPT " ++ hexBytes (packetOf true true h body).data
  | .tsBadsync pkt => "ACCEPT " ++ hexBytes pkt.data
  | .shLong pid16 h rest => "SECHDR_PARSE " ++ listPid pid16 ++ ", sec=" ++ hexBytes (sectionOf true h rest)
  | .shShort pid16 h rest => "SECHDR_PARSE " ++ listPid pid16 ++ ", sec=" ++ hexBytes (sectionOf false h rest)

end Sys2Proof.Machine
end

