-- ==== Sys2Proof/Tests/Slice0.lean ====
section
/-!
SUPPORT. Tests. Expected results come from spec/95_test_vectors.md (the vector's name stands in the comment) or are counted
out by hand from the encodings of spec/30_encoding.md; and, for every statement with hypotheses, a witness: a concrete state
and operands that meet all of them.
-/

namespace Sys2Proof.Tests

open Sys2Proof Sys2Proof.Machine Sys2Proof.Config

/-! ### Helpers -/

/-- The byte sequence `l`, all zeros should it not have `n` bytes. -/
def bytes (n : Nat) (l : List Byte) : Bytes n :=
  if h : l.length = n then ⟨l, h⟩ else ⟨zeroBytes n, List.length_replicate ..⟩

/-- Four header bytes as one big-endian word (R83). -/
def hdrWord (b0 b1 b2 b3 : Byte) : BitVec 32 := b0 ++ b1 ++ b2 ++ b3

/-- The packet `PKT` builds, all zeros should its parts not fit. -/
def packet (a : PktParts) : Bytes 188 := (pkt a).getD (bytes 188 [])

/-- What the framer makes of a packet it accepts. -/
def record (p : Bytes 188) : Framed :=
  match frame p with
  | .ok f => f
  | .error _ => { pid := 0, pusi := false, cc := 0, afc := 0, tsc := 0, main := [], trailing := none }

/-- The next state of an outcome; the reset state should there be none. -/
def next : Host.Outcome State Fault Refusal → State
  | .next s => s
  | .refused _ => State.reset

/-- The framer accepts the packet. -/
def frames (p : Bytes 188) : Bool :=
  match frame p with
  | .ok _ => true
  | .error _ => false

theorem frame_eq_record {p : Bytes 188} (h : frames p = true) : frame p = .ok (record p) := by
  unfold frames at h
  unfold record
  cases hf : frame p with
  | ok f => rfl
  | error e => rw [hf] at h; cases h

/-- The state after one step that finds the given bytes on CMD. -/
def send (s : State) (word : List Byte) : State := next (step { s with cmd := word })

/-- The bytes of the last response. -/
def lastRsp (s : State) : List Byte := (s.rsp.getLast?.map Response.pack).getD []

/-- A state in which PID 0x31 is accumulating with previous counter 14, one observer and one handler (vector T3's start). -/
def accumulating : State :=
  ({ State.reset with obs := [2] }.setSlot 0x31 { hvalid := true, hid := 4 }).setAccum 0x31
    { state := .accumulating 14, buf := [0xA0, 0xA1, 0xA2], pkts := 1, bytes := 3 } |>.setSeen 0x31

/-- The same with a section buffer of at most 100 bytes. -/
def bounded : State := { accumulating with params := { Params.defaults with sectionBufMax := some 100 } }

/-- The fatal state, by buffer overflow. -/
def fatalState : State := { bounded with status := 0x05 }

def plain15 : Bytes 188 := packet { pid := 0x31, cc := 15, payload := [0xB0] }
def start15 : Bytes 188 := packet { pid := 0x31, cc := 15, pusi := true, tail := [0xF0, 0xF1], payload := [0x01, 0x02] }
def plain0 : Bytes 188 := packet { pid := 0x31, cc := 0, payload := [0xC0] }
def start2 : Bytes 188 := packet { pid := 0x31, cc := 2, pusi := true, payload := [0xD0] }
def null9 : Bytes 188 := packet { pid := 0x1FFF, cc := 9 }
def badSyncPacket : Bytes 188 := packet { pid := 0x40, cc := 1, sync := 0x48 }

/-- 0xFF, `n` times. -/
def ffs (n : Nat) : List Byte := List.replicate n 0xFF

/-! ### WellFormed refuses -/

theorem test_wf_section_too_long (sec rest : List Byte) (h : sec.length = 2 ^ 32) (hr : rest.length + 3 = 2 ^ 32) :
    ∀ i ∈ [Instr.sechdrParse 0 sec, .sechdrGetTableId 0 sec, .sechdrGetSyntaxIndicator 0 sec,
      .sechdrGetSectionLength 0 sec, .sechdrGetTableIdExtension 0 sec, .sechdrGetVersionNumber 0 sec,
      .sechdrGetCurrentNext 0 sec, .sechdrGetSectionNumber 0 sec, .sechdrGetLastSectionNumber 0 sec,
      .sechdrGetBodyOffset 0 sec, .shLong 0 ⟨0, 0, 0⟩ rest, .shShort 0 ⟨0, 0, 0⟩ rest], i.wellFormed = false := by
  simp [Instr.wellFormed, secFits, h, hr]

theorem test_wf_badsync_with_good_sync : (Instr.tsBadsync plain15).wellFormed = false := by decide +kernel

theorem test_wf_badsync : (Instr.tsBadsync badSyncPacket).wellFormed = true := by decide +kernel

/-! ### Decoding words written out -/

-- R71 to R80, the operands of the examples of 42_demultiplexer.md and 44_host_commands.md
theorem test_decode_fixed_words :
    decode [0x02, 0x00, 0x30, 0x00, 0x09] = .instr (.registerHandler 0x0030 0x0009) [] ∧
    decode [0x03, 0x1F, 0xFB, 0x05] = .instr (.unregisterHandler 0x1FFB) [0x05] ∧
    decode [0x04, 0x12, 0x34] = .instr (.addObserver 0x1234) [] ∧
    decode [0x05, 0x02] = .instr (.readCsr 0x02) [] ∧
    decode [0x06, 0x00, 0x30, 0x01] = .instr (.readAcc 0x0030 0x01) [] ∧
    decode [0xFF, 0xFF] = .instr .reset [0xFF] := by decide

-- R78, R79; the section bytes of vector H4
theorem test_decode_section_words :
    decode [0x10, 0x1F, 0xFB, 0, 0, 0, 3, 0x80, 0x7F, 0xFF, 0x05] =
      .instr (.sechdrParse 0x1FFB [0x80, 0x7F, 0xFF]) [0x05] ∧
    decode [0x11, 0, 0x1F, 0xFB, 0, 0, 0, 1, 0xCD] = .instr (.sechdrGetTableId 0x1FFB [0xCD]) [] ∧
    decode [0x11, 1, 0x1F, 0xFB, 0, 0, 0, 1, 0xCD] = .instr (.sechdrGetSyntaxIndicator 0x1FFB [0xCD]) [] ∧
    decode [0x11, 2, 0x1F, 0xFB, 0, 0, 0, 1, 0xCD] = .instr (.sechdrGetSectionLength 0x1FFB [0xCD]) [] ∧
    decode [0x11, 3, 0x1F, 0xFB, 0, 0, 0, 1, 0xCD] = .instr (.sechdrGetTableIdExtension 0x1FFB [0xCD]) [] ∧
    decode [0x11, 4, 0x1F, 0xFB, 0, 0, 0, 1, 0xCD] = .instr (.sechdrGetVersionNumber 0x1FFB [0xCD]) [] ∧
    decode [0x11, 5, 0x1F, 0xFB, 0, 0, 0, 1, 0xCD] = .instr (.sechdrGetCurrentNext 0x1FFB [0xCD]) [] ∧
    decode [0x11, 6, 0x1F, 0xFB, 0, 0, 0, 1, 0xCD] = .instr (.sechdrGetSectionNumber 0x1FFB [0xCD]) [] ∧
    decode [0x11, 7, 0x1F, 0xFB, 0, 0, 0, 1, 0xCD] = .instr (.sechdrGetLastSectionNumber 0x1FFB [0xCD]) [] ∧
    decode [0x11, 8, 0x1F, 0xFB, 0, 0, 0, 0] = .instr (.sechdrGetBodyOffset 0x1FFB []) [] := by decide

-- R70, R81: an unfinished word, an undefined opcode, a selector no row has
theorem test_decode_no_instruction :
    decode [] = .incomplete ∧ decode [0x02, 0x00, 0x30, 0x00] = .incomplete ∧
    decode [0x10, 0, 0, 0, 0, 0, 2, 0x80] = .incomplete ∧ decode [0x01] = .incomplete ∧
    decode [0x07, 0xFF] = .badCommand [0xFF] ∧
    decode [0x11, 9, 0, 0, 0, 0, 0, 1, 0xAA, 0xFF] = .badSelector [0xFF] := by decide

-- R72, vector F1
theorem test_decode_accept :
    decode (0x01 :: 0x47 :: 0x01 :: 0x00 :: 0x17 :: (ffs 184 ++ [0x05])) =
      .instr (.accept (bytes 188 (0x47 :: 0x01 :: 0x00 :: 0x17 :: ffs 184))) [0x05] := by decide +kernel

-- R83, vectors F3, F19, F5
theorem test_decode_form_tei :
    decodeForm (0x01 :: 0x47 :: 0x81 :: 0x00 :: 0x17 :: ffs 184) =
      .instr (.tsTei 0x01 (bytes 186 (0x00 :: 0x17 :: ffs 184))) [] := by decide +kernel

theorem test_decode_form_plain :
    decodeForm (0x01 :: 0x47 :: 0x3F :: 0xFE :: 0xDF :: 0x01 :: ffs 183) =
      .instr (.tsP { prio := true, pid := 0x1FFE, tsc := 3, payloadPresent := true, cc := 15 }
        (bytes 184 (0x01 :: ffs 183))) [] := by decide +kernel

theorem test_decode_form_adaptation :
    decodeForm (0x01 :: 0x47 :: 0x01 :: 0x00 :: 0x37 :: 0x00 :: 0xAA :: 0xBB :: ffs 181) =
      .instr (.tsAp { prio := false, pid := 0x0100, tsc := 0, payloadPresent := true, cc := 7 }
        (bytes 184 (0x00 :: 0xAA :: 0xBB :: ffs 181))) [] := by decide +kernel

-- R83, vectors F10, F15, F4
theorem test_decode_form_start :
    decodeForm (0x01 :: 0x47 :: 0x40 :: 0x00 :: 0x10 :: 0x00 :: 0x00 :: 0xB0 :: 0x0D :: ffs 180) =
      .instr (.tsSp { prio := false, pid := 0, tsc := 0, payloadPresent := true, cc := 0 }
        (bytes 184 (0x00 :: 0x00 :: 0xB0 :: 0x0D :: ffs 180))) [] := by decide +kernel

theorem test_decode_form_adaptation_start :
    decodeForm (0x01 :: 0x47 :: 0x40 :: 0x00 :: 0x31 :: 0x0A :: ffs 183) =
      .instr (.tsAsp { prio := false, pid := 0, tsc := 0, payloadPresent := true, cc := 1 }
        (bytes 184 (0x0A :: ffs 183))) [] := by decide +kernel

theorem test_decode_form_badsync :
    decodeForm (0x01 :: 0x00 :: 0x81 :: 0x00 :: 0x17 :: ffs 184) =
      .instr (.tsBadsync (bytes 188 (0x00 :: 0x81 :: 0x00 :: 0x17 :: ffs 184))) [] := by decide +kernel

-- R91, vectors H2 and H4
theorem test_decode_section_forms :
    decodeForm [0x10, 0x1F, 0xFB, 0, 0, 0, 8, 0xC8, 0xF1, 0x23, 0xAB, 0xCD, 0xFE, 0x02, 0x03] =
      .instr (.shLong 0x1FFB { tableId := 0xC8, unread := 7, sectionLength := 0x123 }
        [0xAB, 0xCD, 0xFE, 0x02, 0x03]) [] ∧
    decodeForm [0x10, 0, 0, 0, 0, 0, 3, 0x80, 0x7F, 0xFF] =
      .instr (.shShort 0 { tableId := 0x80, unread := 7, sectionLength := 0xFFF } []) [] := by decide

/-! ### The rows of the opcode table (opcode_table.json: width, match) -/

theorem test_rows_commands :
    decodeTableWord 8 0x01 = some (.accept (bytes 188 (zeroBytes 188))) ∧
    decodeTableWord 8 0x02 = some (.registerHandler 0 0) ∧ decodeTableWord 8 0x03 = some (.unregisterHandler 0) ∧
    decodeTableWord 8 0x04 = some (.addObserver 0) ∧ decodeTableWord 8 0x05 = some (.readCsr 0) ∧
    decodeTableWord 8 0x06 = some (.readAcc 0 0) ∧ decodeTableWord 8 0x10 = some (.sechdrParse 0 []) ∧
    decodeTableWord 8 0xFF = some .reset ∧ decodeTableWord 8 0x07 = none := by decide +kernel

theorem test_rows_selectors :
    decodeTableWord 16 0x1100 = some (.sechdrGetTableId 0 []) ∧
    decodeTableWord 16 0x1101 = some (.sechdrGetSyntaxIndicator 0 []) ∧
    decodeTableWord 16 0x1102 = some (.sechdrGetSectionLength 0 []) ∧
    decodeTableWord 16 0x1103 = some (.sechdrGetTableIdExtension 0 []) ∧
    decodeTableWord 16 0x1104 = some (.sechdrGetVersionNumber 0 []) ∧
    decodeTableWord 16 0x1105 = some (.sechdrGetCurrentNext 0 []) ∧
    decodeTableWord 16 0x1106 = some (.sechdrGetSectionNumber 0 []) ∧
    decodeTableWord 16 0x1107 = some (.sechdrGetLastSectionNumber 0 []) ∧
    decodeTableWord 16 0x1108 = some (.sechdrGetBodyOffset 0 []) ∧ decodeTableWord 16 0x1109 = none := by
  decide +kernel

theorem test_rows_packet_forms :
    decodeTableWord 32 0x47800000 = some (.tsTei 0 (bytes 186 (zeroBytes 186))) ∧
    decodeTableWord 32 0x47000000 = some (.tsP ⟨false, 0, 0, false, 0⟩ (bytes 184 (zeroBytes 184))) ∧
    decodeTableWord 32 0x47000020 = some (.tsAp ⟨false, 0, 0, false, 0⟩ (bytes 184 (zeroBytes 184))) ∧
    decodeTableWord 32 0x47400000 = some (.tsSp ⟨false, 0, 0, false, 0⟩ (bytes 184 (zeroBytes 184))) ∧
    decodeTableWord 32 0x47400020 = some (.tsAsp ⟨false, 0, 0, false, 0⟩ (bytes 184 (zeroBytes 184))) ∧
    decodeTableWord 32 0x00000000 = some (.tsBadsync (bytes 188 (zeroBytes 188))) ∧
    decodeTableWord 24 0x008000 = some (.shLong 0 ⟨0, 0, 0⟩ (zeroBytes 5)) ∧
    decodeTableWord 24 0x000000 = some (.shShort 0 ⟨0, 0, 0⟩ (zeroBytes 5)) := by decide +kernel

-- the very next step runs the row's word: an ACCEPT is counted, a PARSE answered
theorem test_fetch_word_runs :
    (next (step (State.reset.withFetchWord 32 0x47400000))).totalPackets = 1 ∧
    (next (step (State.reset.withFetchWord 24 0x008000))).rsp.length = 1 ∧
    (next (step (State.reset.withFetchWord 16 0x1104))).rsp = [⟨.sectionTruncated, []⟩] := by decide +kernel

/-! ### One step each -/

-- program P1, step 2; 42_demultiplexer.md R150
theorem test_register_handler :
    (send State.reset [0x02, 0x00, 0x00, 0x00, 0x07]).slot 0 = { hvalid := true, hid := 7 } := by decide

-- section 5 of the vectors: PID bit 13 set
theorem test_register_handler_bad_pid :
    lastRsp (send State.reset [0x02, 0x20, 0x00, 0x00, 0x01]) = [0x21] := by decide

-- vector M1, step 9
theorem test_unregister_handler : ((send accumulating [0x03, 0x00, 0x31]).slot 0x31).hvalid = false := by decide

-- vector M1, step 5: a second entry of the same observer, and the order
theorem test_add_observer_twice : (send { State.reset with obs := [5, 3] } [0x04, 0x00, 0x05]).obs = [5, 3, 5] := by
  decide

-- vector M1, step 6
theorem test_add_observer_full :
    lastRsp (send { State.reset with obs := [1, 2, 3, 4, 5, 6, 7, 8] } [0x04, 0x00, 0x06]) = [0x30] := by decide

-- section 5: READ_CSR n=0 after eight packets; STATUS in the fatal state, program P6
theorem test_read_csr :
    lastRsp (send { State.reset with totalPackets := 8 } [0x05, 0x00]) = [0, 0, 0, 0, 0, 0, 0, 0, 8] := by decide

theorem test_read_csr_status : lastRsp (send fatalState [0x05, 0x02]) = [0, 0, 0, 0, 0, 0, 0, 0, 5] := by decide

-- section 5: 367 bytes accumulated
theorem test_read_acc :
    lastRsp (send (State.reset.setAccum 0x30 { state := .accumulating 6, buf := zeroBytes 367, pkts := 2, bytes := 367 })
      [0x06, 0x00, 0x30, 0x01]) = [0, 0, 0, 0, 0, 0, 0, 0x01, 0x6F] := by decide +kernel

theorem test_read_acc_bad_selector : lastRsp (send State.reset [0x06, 0x00, 0x31, 0x02]) = [0x21] := by decide

-- section 4.2, vectors H2 and H3
theorem test_parse_long :
    lastRsp (send State.reset [0x10, 0x1F, 0xFB, 0, 0, 0, 8, 0xC8, 0xF1, 0x23, 0xAB, 0xCD, 0xFE, 0x02, 0x03]) =
      [0x00, 0x1F, 0xFB, 0xC8, 0x01, 0x01, 0x23, 0xAB, 0xCD, 0x1F, 0x00, 0x02, 0x03, 0x08] := by decide

theorem test_parse_short :
    lastRsp (send State.reset [0x10, 0x1F, 0xFB, 0, 0, 0, 8, 0xCD, 0x30, 0x05, 0x01, 0x02, 0x03, 0x04, 0x05]) =
      [0x00, 0x1F, 0xFB, 0xCD, 0x00, 0x00, 0x05, 0, 0, 0, 0, 0, 0, 0x01] := by decide

-- vectors H6, H7
theorem test_parse_truncated :
    lastRsp (send State.reset [0x10, 0, 0, 0, 0, 0, 7, 0x00, 0xB0, 0x0D, 0x00, 0x01, 0xC1, 0x00]) = [0x11] ∧
    lastRsp (send State.reset [0x10, 0, 0, 0, 0, 0, 0]) = [0x11] := by decide

-- section 4.3, every selector on H2 and on H3
theorem test_get_on_long_header :
    ([0, 1, 2, 3, 4, 5, 6, 7, 8, 9].map fun sel : Byte => lastRsp (send State.reset
      [0x11, sel, 0x1F, 0xFB, 0, 0, 0, 8, 0xC8, 0xF1, 0x23, 0xAB, 0xCD, 0xFE, 0x02, 0x03])) =
      [[0, 0, 0xC8], [0, 0, 1], [0, 1, 0x23], [0, 0xAB, 0xCD], [0, 0, 0x1F], [0, 0, 0], [0, 0, 2], [0, 0, 3], [0, 0, 8],
        [0x21]] := by decide +kernel

theorem test_get_on_short_header :
    ([0, 1, 2, 3, 4, 5, 6, 7, 8, 9].map fun sel : Byte => lastRsp (send State.reset
      [0x11, sel, 0x1F, 0xFB, 0, 0, 0, 8, 0xCD, 0x30, 0x05, 0x01, 0x02, 0x03, 0x04, 0x05])) =
      [[0, 0, 0xCD], [0, 0, 0], [0, 0, 5], [0x10], [0x10], [0x10], [0x10], [0x10], [0, 0, 1], [0x21]] := by
  decide +kernel

-- section 5: RESET in the fatal state; what is on EVT is not withdrawn
theorem test_reset : (send fatalState [0xFF]).status = 0 ∧ (send fatalState [0xFF]).obs = [] := by decide

-- section 5: undefined opcodes
theorem test_undefined_opcode :
    lastRsp (send fatalState [0x07]) = [0x20] ∧ lastRsp (send State.reset [0x00]) = [0x20] := by decide

-- vector T3: in order, appended
theorem test_accept_appends :
    ((send accumulating (0x01 :: plain15.data)).accum 0x31).buf.length = 187 ∧
    ((send accumulating (0x01 :: plain15.data)).accum 0x31).pkts = 2 := by decide +kernel

-- vector T6's pattern: a wrong counter with unit-start; the record as 30_encoding.md R92 packs it
theorem test_accept_wrong_counter :
    (send accumulating (0x01 :: start2.data)).evt.map EvtRecord.pack =
      [[0x02, 0x00, 0x00, 0x02, 0x00, 0x31, 14, 15, 2], [0x02, 0x01, 0x00, 0x04, 0x00, 0x31, 14, 15, 2]] := by
  decide +kernel

-- T4's pattern: the section is the buffer and the tail
theorem test_tsSp_completes :
    (send accumulating (0x01 :: start15.data)).evt.map (fun r => (r.destId, r.event)) =
      [(2, .sectionComplete [0xA0, 0xA1, 0xA2, 0xF0, 0xF1]), (4, .sectionComplete [0xA0, 0xA1, 0xA2, 0xF0, 0xF1])] := by
  decide +kernel

-- vectors F16, F17, F20: the length of the main payload, the tail, afc
theorem test_frame_lengths :
    [packet { pid := 0x0100, cc := 7, afLen := some 183, afc := some 2 },
      packet { pid := 0x0100, cc := 7, afc := some 0, payload := [0x01, 0x02] },
      packet { pid := 0x0020, cc := 3, pusi := true, afLen := some 182, ptr := some 0 }].map
      (fun p => ((record p).main.length, (record p).trailing, (record p).afc)) =
      [(0, none, 2), (184, none, 0), (0, none, 3)] := by decide +kernel

-- vectors F8, F9, F13, F14, F21: all OffsetOutOfRange; F4: BadSync before TransportError
theorem test_frame_rejects :
    [packet { pid := 0x0100, cc := 7, afLen := some 184 }, packet { pid := 0x0100, cc := 7, afLen := some 255 },
      packet { pid := 0, cc := 1, pusi := true, ptr := some 184, payload := List.replicate 183 0x5A },
      packet { pid := 0, cc := 1, pusi := true, afLen := some 183 },
      packet { pid := 0x0020, cc := 3, pusi := true, afLen := some 182, ptr := some 1 },
      packet { pid := 0x0100, cc := 7, tei := true, sync := 0x00 }].map
      (fun p => lastRsp (send State.reset (0x01 :: p.data))) =
      [[0x03], [0x03], [0x03], [0x03], [0x03], [0x01]] := by decide +kernel

/-- Vector F15. -/
def packet15 : Bytes 188 :=
  packet { pid := 0, cc := 1, pusi := true, afLen := some 10, tail := [0xDE, 0xAD], payload := [0xC7, 0xF0, 0x10] }

-- vector F15: adaptation field and unit-start
theorem test_tsAsp :
    (record packet15).trailing = some [0xDE, 0xAD] ∧ (record packet15).main = 0xC7 :: 0xF0 :: 0x10 :: ffs 167 := by
  decide +kernel

-- program P6: the bound passed
theorem test_accept_overflow :
    lastRsp (send bounded (0x01 :: plain15.data)) = [0xF0] ∧
    (send bounded (0x01 :: plain15.data)).status = 0x05 := by decide +kernel

-- R238 (d), R94: a failure report leaves one LOG entry and nothing else
theorem test_handler_fault :
    (next (step { State.reset with evtFailures := [⟨.pidHandler, 0x0102, 0x0030⟩] })).log.map LogEntry.pack =
      [[0x80, 0x01, 0x01, 0x02, 0x00, 0x30]] := by decide

/-! ### Witnesses: a concrete state and operands that meet the hypotheses of a statement -/

theorem test_witness_DecodeEncodeRoundTrip :
    (Instr.registerHandler 0x30 9).wellFormed = true ∧ (Instr.registerHandler 0x30 9).isCommand = true ∧
    (Instr.shShort 0 ⟨0, 0, 0⟩ []).wellFormed = true ∧ (Instr.shShort 0 ⟨0, 0, 0⟩ []).isCommand = false := by decide

theorem test_witness_EncodeDecodeGivesTheBytesBack :
    decode [0x05, 0x02] = .instr (.readCsr 2) [] ∧ decodeForm [0x05, 0x02] = .instr (.readCsr 2) [] := by decide

-- each of the six rows is met by a packet; the header words of F3, F1, F5, F10, F15, F4
theorem test_witness_PacketFormIsTheMatchingRow :
    (hdrWord 0x47 0x81 0x00 0x17 &&& 0xFF800000) = 0x47800000 ∧
    (hdrWord 0x47 0x01 0x00 0x17 &&& 0xFFC00020) = 0x47000000 ∧
    (hdrWord 0x47 0x01 0x00 0x37 &&& 0xFFC00020) = 0x47000020 ∧
    (hdrWord 0x47 0x40 0x00 0x10 &&& 0xFFC00020) = 0x47400000 ∧
    (hdrWord 0x47 0x40 0x00 0x31 &&& 0xFFC00020) = 0x47400020 ∧
    (hdrWord 0x00 0x81 0x00 0x17 &&& 0xFF800000) ≠ 0x47800000 ∧
    (hdrWord 0x00 0x81 0x00 0x17 &&& 0xFFC00020) ≠ 0x47000000 ∧
    (hdrWord 0x00 0x81 0x00 0x17 &&& 0xFFC00020) ≠ 0x47000020 ∧
    (hdrWord 0x00 0x81 0x00 0x17 &&& 0xFFC00020) ≠ 0x47400000 ∧
    (hdrWord 0x00 0x81 0x00 0x17 &&& 0xFFC00020) ≠ 0x47400020 := by decide

theorem test_witness_PacketFormIsTheMatchingRow_packet :
    (bytes 188 (0x47 :: 0x81 :: 0x00 :: 0x17 :: ffs 184)).data =
      0x47 :: 0x81 :: 0x00 :: 0x17 :: (bytes 184 (ffs 184)).data := by decide +kernel

theorem test_witness_StepRunsTheDecodedCommand :
    decode ({ State.reset with cmd := [0xFF] } : State).cmd = .instr .reset [] := by decide

theorem test_witness_FormsAgreeWithFrameAndHdr :
    (Instr.tsBadsync badSyncPacket).wellFormed = true ∧
    decodeForm ({ State.reset with cmd := [0x10, 0, 0, 0, 0, 0, 3, 0x80, 0x7F, 0xFF] } : State).cmd =
      .instr (.shShort 0 { tableId := 0x80, unread := 7, sectionLength := 0xFFF } []) [] := by decide +kernel

theorem test_witness_UndefinedOpcodeIsBadCommand :
    ({ State.reset with cmd := [0x07, 0xFF] } : State).cmd = 0x07 :: [0xFF] ∧ (0x07 : Byte) ≠ 0x01 ∧
    (0x07 : Byte) ≠ 0x02 ∧ (0x07 : Byte) ≠ 0x03 ∧ (0x07 : Byte) ≠ 0x04 ∧ (0x07 : Byte) ≠ 0x05 ∧ (0x07 : Byte) ≠ 0x06 ∧
    (0x07 : Byte) ≠ 0x10 ∧ (0x07 : Byte) ≠ 0x11 ∧ (0x07 : Byte) ≠ 0xFF := by decide

theorem test_witness_ReservedSelectorIsBadOperand :
    8 < (9 : Byte).toNat ∧ [(0xAA : Byte)].length = be32 0 0 0 1 ∧
    ({ State.reset with cmd := [0x11, 9, 0, 0, 0, 0, 0, 1, 0xAA, 0xFF] } : State).cmd =
      0x11 :: 9 :: 0 :: 0 :: 0 :: 0 :: 0 :: 1 :: ([0xAA] ++ [0xFF]) := by decide

theorem test_witness_OneResponsePerCommand :
    decode State.reset.cmd = .incomplete ∧ decode ({ State.reset with cmd := [0xFF] } : State).cmd ≠ .incomplete := by
  decide

-- both ends of the PID range; the greatest identifier, which the default width holds
theorem test_witness_RegisterHandlerFillsTheSlot :
    (0 : BitVec 16).toNat ≤ 0x1FFF ∧ (0x1FFF : BitVec 16).toNat ≤ 0x1FFF ∧ State.reset.fatal = false ∧
    (1 : Nat) ≠ (0 : BitVec 16).toNat ∧ (0xFFFF : BitVec 16).toNat < 2 ^ State.reset.params.idW := by decide

theorem test_witness_UnregisterHandlerEmptiesTheSlot :
    (0x31 : BitVec 16).toNat ≤ 0x1FFF ∧ accumulating.fatal = false ∧ (accumulating.slot 0x31).hvalid = true := by decide

theorem test_witness_AddObserverAppendsOrIsFull :
    State.reset.fatal = false ∧ State.reset.obs.length ≠ State.reset.params.nObsMax ∧
    (0xFFFF : BitVec 16).toNat < 2 ^ State.reset.params.idW ∧
    ({ State.reset with obs := [1, 2, 3, 4, 5, 6, 7, 8] } : State).obs.length = State.reset.params.nObsMax := by decide

-- the two ends of the range
theorem test_witness_PidOutOfRangeIsBadOperand :
    0x1FFF < (0x2000 : BitVec 16).toNat ∧ 0x1FFF < (0xFFFF : BitVec 16).toNat := by decide

theorem test_witness_ReadCsrAnswersTheRegister : 2 < (3 : Byte).toNat ∧ 2 < (255 : Byte).toNat := by decide

theorem accum_reset (p : Nat) : State.reset.accum p = Accum.idle := rfl

theorem accumsOk_reset : State.reset.accumsOk := fun _ => ⟨rfl, rfl, rfl⟩

-- each clause: a PID out of range, a selector out of range, the bound of each; and the three idle cases
theorem test_witness_ReadAccAnswersTheCounter :
    0x1FFF < (0x2000 : BitVec 16).toNat ∧ 1 < (2 : Byte).toNat ∧ (0x1FFF : BitVec 16).toNat ≤ 0x1FFF ∧
    (1 : Byte).toNat ≤ 1 ∧ State.reset.accumsOk ∧ State.reset.nullPidUntouched ∧ State.reset.seenCovers ∧
    State.reset.seenBit (0x30 : BitVec 16).toNat = false ∧
    (State.reset.accum (0x30 : BitVec 16).toNat).state = .awaitingStart :=
  ⟨by decide, by decide, by decide, by decide, accumsOk_reset, ⟨rfl, rfl⟩, fun _ h => absurd rfl h, rfl, rfl⟩

theorem test_witness_ParseAnswersALongHeader :
    (0x1FFF : BitVec 16).toNat ≤ 0x1FFF ∧ (0xF1 : Byte).getLsbD 7 = true := by decide

theorem test_witness_ParseAnswersAShortHeader :
    (0x1FFF : BitVec 16).toNat ≤ 0x1FFF ∧ (0x7F : Byte).getLsbD 7 = false := by decide

-- two bytes; seven bytes flagged long; four bytes behind a long-form head
theorem test_witness_TooFewBytesIsSectionTruncated :
    (0 : BitVec 16).toNat ≤ 0x1FFF ∧ [(0x00 : Byte), 0xB0].length < 3 ∧
    ([(0x00 : Byte), 0xB0, 0x0D, 0x00, 0x01, 0xC1, 0x00].length < 8 ∧
      ∃ s1, [(0x00 : Byte), 0xB0, 0x0D, 0x00, 0x01, 0xC1, 0x00][1]? = some s1 ∧ s1.getLsbD 7 = true) ∧
    [(0x00 : Byte), 0x01, 0xC1, 0x00].length < 5 :=
  ⟨by decide, by decide, ⟨by decide, 0xB0, by decide, by decide⟩, by decide⟩

theorem test_witness_GettersOfBothForms :
    (0 : BitVec 16).toNat ≤ 0x1FFF ∧ ((0x30 : Byte).getLsbD 7 = true → 5 ≤ ([] : List Byte).length) ∧
    ((0xB0 : Byte).getLsbD 7 = true → 5 ≤ [(0 : Byte), 0, 0, 0, 0].length) := by decide

theorem test_witness_GettersOfTheLongFormOnly :
    (0 : BitVec 16).toNat ≤ 0x1FFF ∧ (0xF1 : Byte).getLsbD 7 = true ∧ (0x30 : Byte).getLsbD 7 = false ∧
    [(0xAB : Byte), 0xCD, 0xFE, 0x02, 0x03] = 0xAB :: 0xCD :: 0xFE :: 0x02 :: 0x03 :: [] := by decide

-- vectors F2, F3, F8 (and F1 for the accepted case)
theorem test_witness_FrameErrorsInOrder :
    (0x46 : Byte) ≠ 0x47 ∧ (0x81 : Byte).getLsbD 7 = true ∧ (0x01 : Byte).getLsbD 7 = false ∧
    (bytes 188 (0x46 :: 0x01 :: ffs 186)).data =
      0x46 :: 0x01 :: (bytes 186 (ffs 186)).data := by decide +kernel

theorem test_witness_FrameSucceedsExactlyWhen :
    plain15.data = 0x47 :: 0x00 :: 0x31 :: 0x1F :: 0xB0 :: (bytes 183 (ffs 183)).data := by decide +kernel

theorem test_witness_FrameReadsTheHeaderFields :
    plain15.data = 0x47 :: 0x00 :: 0x31 :: 0x1F :: (bytes 184 (0xB0 :: ffs 183)).data ∧
    frame plain15 = .ok (record plain15) :=
  ⟨by decide +kernel, frame_eq_record (by decide +kernel)⟩

-- without unit-start, and with it and a pointer that is not 0, and one that is
theorem test_witness_FrameSlicesThePayload :
    frame plain15 = .ok (record plain15) ∧ (record plain15).pusi = false ∧
    frame start15 = .ok (record start15) ∧ (record start15).pusi = true ∧
    start15.data[4]? = some 2 ∧ frame start2 = .ok (record start2) ∧ start2.data[4]? = some 0 :=
  ⟨frame_eq_record (by decide +kernel), by decide +kernel, frame_eq_record (by decide +kernel), by decide +kernel,
    by decide +kernel, frame_eq_record (by decide +kernel), by decide +kernel⟩

theorem test_witness_RejectedPacketChangesNothing :
    lastRsp (send State.reset (0x01 :: badSyncPacket.data)) = [0x01] ∧ State.reset.fatal = false := by decide +kernel

theorem test_witness_NullPacketIsOnlyCounted :
    frame null9 = .ok (record null9) ∧ (record null9).pid = 0x1FFF ∧ State.reset.fatal = false :=
  ⟨frame_eq_record (by decide +kernel), by decide +kernel, by decide⟩

theorem test_witness_AwaitingIgnoresAPacketWithoutUnitStart :
    frame plain15 = .ok (record plain15) ∧ (record plain15).pid ≠ 0x1FFF ∧ State.reset.fatal = false ∧
    (State.reset.accum (record plain15).pid.toNat).state = .awaitingStart ∧
    (State.reset.accum (record plain15).pid.toNat).buf = [] ∧ (record plain15).pusi = false :=
  ⟨frame_eq_record (by decide +kernel), by decide +kernel, by decide, rfl, rfl, by decide +kernel⟩

/-- The reset state with a section buffer of at most `m` bytes. -/
def boundedReset (m : Nat) : State := { State.reset with params := { Params.defaults with sectionBufMax := some m } }

-- a bound the main payload just meets
theorem test_witness_UnitStartStartsASection :
    frame start2 = .ok (record start2) ∧ (record start2).pid ≠ 0x1FFF ∧ (record start2).pusi = true ∧
    (boundedReset 183).fatal = false ∧ ((boundedReset 183).accum (record start2).pid.toNat).state = .awaitingStart ∧
    ((boundedReset 183).accum (record start2).pid.toNat).buf = [] ∧
    ∀ m, (boundedReset 183).params.sectionBufMax = some m → (record start2).main.length ≤ m :=
  ⟨frame_eq_record (by decide +kernel), by decide +kernel, by decide +kernel, rfl, rfl, rfl, fun m h => by
    cases h; exact (by decide +kernel : (record start2).main.length ≤ 183)⟩

-- the greatest bound the same packet passes
theorem test_witness_AwaitingStartPastTheBoundIsFatal :
    frame start2 = .ok (record start2) ∧ (record start2).pid ≠ 0x1FFF ∧ (boundedReset 182).fatal = false ∧
    ((boundedReset 182).accum (record start2).pid.toNat).state = .awaitingStart ∧
    ((boundedReset 182).accum (record start2).pid.toNat).buf = [] ∧ (record start2).pusi = true ∧
    (boundedReset 182).params.sectionBufMax = some 182 ∧ 182 < (record start2).main.length :=
  ⟨frame_eq_record (by decide +kernel), by decide +kernel, rfl, rfl, rfl, by decide +kernel, rfl, by decide +kernel⟩

theorem test_witness_InOrderPacketIsAppended :
    frame plain15 = .ok (record plain15) ∧ (record plain15).pid ≠ 0x1FFF ∧ accumulating.fatal = false ∧
    (accumulating.accum (record plain15).pid.toNat).state = .accumulating 14 ∧
    (record plain15).cc.toNat = ((14 : BitVec 4).toNat + 1) % 16 ∧ (record plain15).pusi = false ∧
    accumulating.params.sectionBufMax = none :=
  ⟨frame_eq_record (by decide +kernel), by decide +kernel, by decide, by decide +kernel, by decide +kernel,
    by decide +kernel, rfl⟩

theorem test_witness_InOrderUnitStartCompletesTheSection :
    frame start15 = .ok (record start15) ∧ (record start15).pid ≠ 0x1FFF ∧ accumulating.fatal = false ∧
    (accumulating.accum (record start15).pid.toNat).state = .accumulating 14 ∧
    (record start15).cc.toNat = ((14 : BitVec 4).toNat + 1) % 16 ∧ (record start15).pusi = true ∧
    accumulating.params.sectionBufMax = none :=
  ⟨frame_eq_record (by decide +kernel), by decide +kernel, by decide, by decide +kernel, by decide +kernel,
    by decide +kernel, rfl⟩

-- without and with unit-start, under both settings of the routing
theorem test_witness_WrongCounterDiscardsAndReports :
    frame plain0 = .ok (record plain0) ∧ frame start2 = .ok (record start2) ∧ (record plain0).pid ≠ 0x1FFF ∧
    accumulating.fatal = false ∧ (accumulating.accum (record plain0).pid.toNat).state = .accumulating 14 ∧
    (record plain0).cc.toNat ≠ ((14 : BitVec 4).toNat + 1) % 16 ∧
    (record start2).cc.toNat ≠ ((14 : BitVec 4).toNat + 1) % 16 ∧ accumulating.params.sectionBufMax = none ∧
    accumulating.params.ccErrRouting = .asSections ∧
    ({ accumulating with params := { Params.defaults with ccErrRouting := .broadcastOnly } } : State).params.ccErrRouting
      = .broadcastOnly :=
  ⟨frame_eq_record (by decide +kernel), frame_eq_record (by decide +kernel), by decide +kernel, by decide,
    by decide +kernel, by decide +kernel, by decide +kernel, rfl, rfl, rfl⟩

theorem test_witness_AppendPastTheBoundIsFatal :
    frame plain15 = .ok (record plain15) ∧ (record plain15).pid ≠ 0x1FFF ∧ bounded.fatal = false ∧
    (bounded.accum (record plain15).pid.toNat).state = .accumulating 14 ∧
    (record plain15).cc.toNat = ((14 : BitVec 4).toNat + 1) % 16 ∧ (record plain15).pusi = false ∧
    bounded.params.sectionBufMax = some 100 ∧
    100 < (bounded.accum (record plain15).pid.toNat).buf.length + (record plain15).main.length :=
  ⟨frame_eq_record (by decide +kernel), by decide +kernel, by decide, by decide +kernel, by decide +kernel,
    by decide +kernel, rfl, by decide +kernel⟩

-- the right counter and a wrong one; both settings of the routing
theorem test_witness_ReofferPastTheBoundKeepsTheRecords :
    frame start15 = .ok (record start15) ∧ frame start2 = .ok (record start2) ∧ (record start15).pid ≠ 0x1FFF ∧
    (record start2).pid = (record start15).pid ∧ bounded.fatal = false ∧
    (bounded.accum (record start15).pid.toNat).state = .accumulating 14 ∧
    (record start15).pusi = true ∧ (record start2).pusi = true ∧
    (record start15).cc.toNat = ((14 : BitVec 4).toNat + 1) % 16 ∧
    (record start2).cc.toNat ≠ ((14 : BitVec 4).toNat + 1) % 16 ∧ bounded.params.sectionBufMax = some 100 ∧
    100 < (record start15).main.length ∧ 100 < (record start2).main.length ∧
    bounded.params.ccErrRouting = .asSections ∧
    ({ bounded with params := { bounded.params with ccErrRouting := .broadcastOnly } } : State).params.ccErrRouting
      = .broadcastOnly :=
  ⟨frame_eq_record (by decide +kernel), frame_eq_record (by decide +kernel), by decide +kernel, by decide +kernel,
    by decide, by decide +kernel, by decide +kernel, by decide +kernel, by decide +kernel, by decide +kernel, rfl,
    by decide +kernel, by decide +kernel, rfl, rfl⟩

/-- A state no run reaches: idle, with a byte in the buffer. -/
def broken : State := State.reset.setAccum 0x31 { Accum.idle with buf := [0] }

theorem test_witness_NonEmptyBufferInAwaitingIsFatal :
    frame plain15 = .ok (record plain15) ∧ (record plain15).pid ≠ 0x1FFF ∧ broken.fatal = false ∧
    (broken.accum (record plain15).pid.toNat).state = .awaitingStart ∧
    (broken.accum (record plain15).pid.toNat).buf ≠ [] :=
  ⟨frame_eq_record (by decide +kernel), by decide +kernel, by decide, by decide +kernel, by decide +kernel⟩

theorem test_witness_FatalStateRefusesTheFourCommands :
    fatalState.fatal = true ∧ (0x1FFF : BitVec 16).toNat ≤ 0x1FFF := by decide

/-- The header of `plain15`. -/
def header15 : TsHeader := { prio := false, pid := 0x31, tsc := 0, payloadPresent := true, cc := 15 }

-- both forms; the longest field of TS.AP
theorem test_witness_FormsWithoutUnitStartAppend :
    (bytes 184 (0xB7 :: ffs 183)).data = 0xB7 :: (bytes 183 (ffs 183)).data ∧
    (0xB7 : Byte).toNat ≤ 183 ∧ header15.pid ≠ 0x1FFF ∧ accumulating.fatal = false ∧
    accumulating.params.sectionBufMax = none ∧
    (accumulating.accum header15.pid.toNat).state = .accumulating 14 ∧
    header15.cc.toNat = ((14 : BitVec 4).toNat + 1) % 16 := by decide +kernel

-- TS.SP with the greatest pointer; TS.ASP with a field of one byte and a pointer that just fits
theorem test_witness_FormsWithUnitStartStart :
    (bytes 184 (0xB7 :: ffs 183)).data = 0xB7 :: ffs 183 ∧ (0xB7 : Byte).toNat ≤ (ffs 183).length ∧
    (bytes 184 (1 :: 0 :: 0xB5 :: ffs 181)).data = 1 :: ([(0 : Byte)] ++ 0xB5 :: ffs 181) ∧
    [(0 : Byte)].length = (1 : Byte).toNat ∧ (0xB5 : Byte).toNat ≤ (ffs 181).length ∧ header15.pid ≠ 0x1FFF ∧
    State.reset.fatal = false ∧ State.reset.params.sectionBufMax = none ∧
    (State.reset.accum header15.pid.toNat).state = .awaitingStart ∧
    (State.reset.accum header15.pid.toNat).buf = [] := by decide +kernel

-- the least lengths that do not fit
theorem test_witness_IllegalPacketsAreRejected :
    State.reset.fatal = false ∧
    (bytes 184 (0xB8 :: ffs 183)).data = 0xB8 :: (bytes 183 (ffs 183)).data ∧
    183 < (0xB8 : Byte).toNat ∧ 182 < (0xB7 : Byte).toNat ∧
    (bytes 184 (0x00 :: 0xB7 :: ffs 182)).data =
      0x00 :: (bytes 183 (0xB7 :: ffs 182)).data ∧
    (bytes 183 (0xB7 :: ffs 182)).data[(0x00 : Byte).toNat]? = some 0xB7 ∧
    182 < (0x00 : Byte).toNat + (0xB7 : Byte).toNat := by decide +kernel

theorem step_next (s : State) : step s = .next (next (step s)) := by
  obtain ⟨t, h, _⟩ := step_stepped s
  rw [h]; rfl

theorem exec_next (i : Instr) (s : State) : exec i s = .next (next (exec i s)) := by
  obtain ⟨t, h, _⟩ := exec_executed i s
  rw [h]; rfl

/-- The reset state with an ACCEPT on CMD that starts a section. -/
def starting : State := { State.reset with cmd := 0x01 :: start2.data }

-- the step is not one that waits
theorem test_starting : (next (step starting)).totalPackets = 1 := by decide +kernel

theorem test_witness_StepKeepsFilesCanonical :
    starting.filesCanonical ∧ step starting = .next (next (step starting)) :=
  ⟨⟨⟨.nil, nofun⟩, ⟨.nil, nofun⟩, ⟨.nil, nofun⟩⟩, step_next _⟩

theorem accumsOk_starting : starting.accumsOk := fun _ => ⟨rfl, rfl, rfl⟩

-- both clauses
theorem test_witness_StepKeepsTheAccumulatorInvariant :
    starting.accumsOk ∧ step starting = .next (next (step starting)) ∧ 1 ≤ starting.params.cntW.val ∧
    (∀ p, (starting.accum p).pkts + 1 < 2 ^ starting.params.cntW.val) ∧ starting.pktsPositive :=
  ⟨accumsOk_starting, step_next _, by decide, fun _ => (by decide : 0 + 1 < 2 ^ 64), fun _ _ h => by cases h⟩

theorem test_witness_StepKeepsTheNullPidUntouched :
    starting.nullPidUntouched ∧ starting.pidsInRange ∧ starting.seenCovers ∧
    step starting = .next (next (step starting)) :=
  ⟨⟨rfl, rfl⟩, fun _ _ => ⟨rfl, rfl, rfl⟩, fun _ h => absurd rfl h, step_next _⟩

-- each of the three legal values
theorem test_witness_StepKeepsStatusLegal :
    starting.statusLegal ∧ ({ starting with status := 0x03 } : State).statusLegal ∧ fatalState.statusLegal ∧
    step starting = .next (next (step starting)) :=
  ⟨.inl rfl, .inr (.inl rfl), .inr (.inr rfl), step_next _⟩

theorem sizesFit_reset : State.reset.sizesFit := ⟨by decide, by decide, by decide, nofun, fun _ => Nat.two_pow_pos _⟩

theorem test_witness_StepKeepsSizesAndParameters :
    starting.sizesFit ∧ step starting = .next (next (step starting)) :=
  ⟨⟨by decide, by decide, by decide, nofun, fun _ => Nat.two_pow_pos _⟩, step_next _⟩

theorem test_witness_UnboundedBufferNeverFatal :
    starting.params.sectionBufMax = none ∧ starting.noFault ∧ starting.accumsOk :=
  ⟨rfl, by unfold State.noFault; decide, accumsOk_starting⟩

-- a rejection, and a Fatal because FATAL was set
theorem test_witness_ExceptionsArePrecise :
    step { State.reset with cmd := [0x07] } = .next { State.reset with rsp := [⟨.badCommand, []⟩] } ∧
    step { fatalState with cmd := [0x04, 0, 1] } = .next { fatalState with rsp := [⟨.fatal, []⟩] } ∧
    fatalState.fatal = true := ⟨rfl, rfl, by decide⟩

theorem test_witness_FatalIsStickyUntilReset :
    ({ fatalState with cmd := [0x05, 0x02] } : State).fatal = true ∧
    step { fatalState with cmd := [0x05, 0x02] } = .next (next (step { fatalState with cmd := [0x05, 0x02] })) ∧
    ∀ rest, decode ({ fatalState with cmd := [0x05, 0x02] } : State).cmd ≠ .instr .reset rest :=
  ⟨by decide, step_next _, fun rest h => by
    rw [show decode [0x05, 0x02] = .instr (.readCsr 2) [] by decide] at h; cases h⟩

theorem accept_wellFormed (p : Bytes 188) : (Instr.accept p).wellFormed = true := rfl

theorem accept_command (p : Bytes 188) : (Instr.accept p).command = .accept p := rfl

-- PID 0x40 while a packet of PID 0x31 is accepted, and PID 0x1FFF while a null packet is
theorem test_witness_OnlyItsOwnPacketsChangeAnAccumulator :
    (Instr.accept plain15).wellFormed = true ∧ Instr.accept plain15 ≠ .reset ∧
    exec (.accept plain15) accumulating = .next (next (exec (.accept plain15) accumulating)) ∧
    ∀ pkt f, (Instr.accept plain15).command = .accept pkt → frame pkt = .ok f → f.pid.toNat = 0x40 → f.pid = 0x1FFF :=
  ⟨accept_wellFormed _, by simp, exec_next _ _, fun pkt f hc hf hp => by
    rw [accept_command] at hc
    rw [← Instr.accept.inj hc, frame_eq_record (p := plain15) (by decide +kernel)] at hf
    rw [← Except.ok.inj hf] at hp
    exact absurd hp (by decide +kernel)⟩

-- a packet that frames, and the two cases in which nothing is counted
theorem test_witness_TotalPacketsCountsFramedPackets :
    (Instr.accept plain15).wellFormed = true ∧ Instr.accept plain15 ≠ .reset ∧
    (Instr.accept plain15).command = .accept plain15 ∧ frame plain15 = .ok (record plain15) ∧
    accumulating.fatal = false ∧ fatalState.fatal = true ∧
    (∀ pkt f, (Instr.readCsr 0).command = .accept pkt → frame pkt ≠ .ok f) :=
  ⟨accept_wellFormed _, by simp, accept_command _, frame_eq_record (by decide +kernel), by decide, by decide,
    fun _ _ h => by cases h⟩

theorem test_witness_StreamOfFramedPacketsIsCounted :
    State.reset.params.sectionBufMax = none ∧ State.reset.noFault ∧ State.reset.accumsOk ∧ State.reset.sizesFit ∧
    ∀ p ∈ [plain15, null9, start2], ∃ f, frame p = .ok f :=
  ⟨rfl, by unfold State.noFault; decide, accumsOk_reset, sizesFit_reset, by
    simp only [List.mem_cons, List.not_mem_nil, or_false]
    intro p hp
    rcases hp with hp | hp | hp <;> rw [hp]
    · exact ⟨record plain15, frame_eq_record (by decide +kernel)⟩
    · exact ⟨record null9, frame_eq_record (by decide +kernel)⟩
    · exact ⟨record start2, frame_eq_record (by decide +kernel)⟩⟩

-- both alternatives of the clause on the number of records
theorem test_witness_AtMostOneEventPerStep :
    step starting = .next (next (step starting)) ∧ accumulating.params.ccErrRouting = .asSections ∧
    (∃ bytes, Event.sectionComplete [0xA0] = .sectionComplete bytes) :=
  ⟨step_next _, rfl, _, rfl⟩

theorem test_witness_ReportedCountersAreConsistent :
    (⟨.globalObserver, 2, 0x31, .continuityError 14 15 2⟩ : EvtRecord) ∈
      (send accumulating (0x01 :: start2.data)).evt.drop accumulating.evt.length := by decide +kernel

theorem test_witness_RepeatedPacketIsAContinuityError :
    frame start2 = .ok (record start2) ∧ (record start2).pid ≠ 0x1FFF ∧ State.reset.params.sectionBufMax = none ∧
    State.reset.noFault ∧ exec (.accept start2) State.reset = .next (next (exec (.accept start2) State.reset)) ∧
    ((next (exec (.accept start2) State.reset)).accum (record start2).pid.toNat).state = .accumulating 2 :=
  ⟨frame_eq_record (by decide +kernel), by decide +kernel, rfl, by unfold State.noFault; decide,
    exec_next _ _, by decide +kernel⟩

theorem test_witness_SeenIsUnobservable : step starting = .next (next (step starting)) := step_next _

theorem test_witness_OutputsAndFailuresAreNeverReadBack : step starting = .next (next (step starting)) := step_next _

/-- A unit-start packet, counter 15. -/
def first15 : Bytes 188 := packet { pid := 0x31, cc := 15, pusi := true, payload := [0xA0] }
/-- A unit-start packet, counter 1, with a tail. -/
def last1 : Bytes 188 := packet { pid := 0x31, cc := 1, pusi := true, tail := [0xE0], payload := [0xF0] }

-- one packet in the middle, the counter passing 15
theorem test_witness_InOrderPacketsReassemble :
    State.reset.params.sectionBufMax = none ∧ State.reset.noFault ∧ (record first15).pid ≠ 0x1FFF ∧
    State.reset.accum (record first15).pid.toNat = Accum.idle ∧ frame first15 = .ok (record first15) ∧
    (record first15).pusi = true ∧ frame last1 = .ok (record last1) ∧ (record last1).pusi = true ∧
    (record last1).pid = (record first15).pid ∧
    (record last1).cc.toNat = ((record first15).cc.toNat + [record plain0].length + 1) % 16 ∧
    [plain0].length = [record plain0].length ∧
    ∀ k m p, [record plain0][k]? = some m → [plain0][k]? = some p → frame p = .ok m ∧ m.pusi = false ∧
      m.pid = (record first15).pid ∧ m.cc.toNat = ((record first15).cc.toNat + k + 1) % 16 :=
  ⟨rfl, by unfold State.noFault; decide, by decide +kernel, accum_reset _,
    frame_eq_record (by decide +kernel), by decide +kernel, frame_eq_record (by decide +kernel), by decide +kernel,
    by decide +kernel, by decide +kernel, by decide +kernel, fun k m p hm hp => by
      cases k with
      | succ k => simp at hm
      | zero =>
        simp only [List.getElem?_cons_zero, Option.some.injEq] at hm hp
        subst hm hp
        exact ⟨frame_eq_record (by decide +kernel), by decide +kernel, by decide +kernel, by decide +kernel⟩⟩

end Sys2Proof.Tests
end

section
/-!
PROOFS. R41: what the registers of 10_state.md hold after reset. The PID-indexed files are empty lists there, so each entry
reads as the value an unlisted PID has.
-/

namespace Sys2Proof.Machine

@[simp] theorem State.reset_accum (p : Nat) : State.reset.accum p = Accum.idle := Memory.read_nil _ p

@[simp] theorem State.reset_seenBit (p : Nat) : State.reset.seenBit p = false := Memory.read_nil _ p

@[simp] theorem State.reset_slot (p : Nat) : State.reset.slot p = HandlerSlot.empty := Memory.read_nil _ p

/-- Settles O17: the three PID-indexed files by their reads at reset, the scalar registers by the definition of reset. -/
theorem resetValues : Obligations.ResetValues := by
  unfold Obligations.ResetValues
  have hvalid : ∀ p, (State.reset.slot p).hvalid = false := fun p => by rw [State.reset_slot, HandlerSlot.empty]
  exact ⟨State.reset_accum, State.reset_seenBit, hvalid, rfl, rfl, rfl, rfl⟩

end Sys2Proof.Machine
end

section
/-!
PROOFS. 40_packet_framer.md R112: the framer's checks in the order in which it makes them, one lemma per check, each under
the premises that the earlier ones passed.
-/

namespace Sys2Proof

theorem Bytes.get_of_data_eq {n : Nat} {b : Bytes n} {l : List Byte} (h : b.data = l) (i : Nat) (hi : i < n)
    (hl : i < l.length) : b.get i hi = l[i] := by
  subst h
  rfl

end Sys2Proof

namespace Sys2Proof.Machine

open Sys2Proof.Config

theorem frame_of_badSync {p : Bytes 188} (hsync : p.get 0 (by decide) ≠ SYNC) : frame p = .error .badSync :=
  if_pos hsync

theorem frame_of_transportError {p : Bytes 188} (hsync : p.get 0 (by decide) = SYNC)
    (htei : teiOf (p.get 1 (by decide)) = true) : frame p = .error .transportError :=
  (if_neg (not_not_intro hsync)).trans (if_pos htei)

theorem frameUnitStart_error {p : Bytes 188} {off : Nat} {e : Status} (h : frameUnitStart p off = .error e) :
    e = .offsetOutOfRange := by
  unfold frameUnitStart at h
  split at h
  · exact (Except.error.inj h).symm
  · dsimp only at h
    split at h
    · exact (Except.error.inj h).symm
    · cases h

/-- Past the sync byte and the error bit only the range checks are left: R107's of the payload offset, then with
unit-start R108's and R109's of the pointer byte. -/
theorem frame_error_of_header_good {p : Bytes 188} {e : Status} (hsync : p.get 0 (by decide) = SYNC)
    (htei : teiOf (p.get 1 (by decide)) = false) (h : frame p = .error e) : e = .offsetOutOfRange := by
  unfold frame at h
  simp only [hsync, htei, ne_eq, not_true_eq_false, Bool.false_eq_true, ↓reduceIte] at h
  split at h
  · exact (Except.error.inj h).symm
  split at h
  · next hslices =>
    cases h
    split at hslices
    · exact frameUnitStart_error hslices
    · cases hslices
  · cases h

/-- Settles O23: each clause is the lemma of its check, at the packet's first two bytes. -/
theorem frameErrorsInOrder : Obligations.FrameErrorsInOrder := by
  unfold Obligations.FrameErrorsInOrder
  intro b0 b1 more p hp
  have hb0 : p.get 0 (by decide) = b0 := Bytes.get_of_data_eq hp 0 _ (by simp)
  have hb1 : p.get 1 (by decide) = b1 := Bytes.get_of_data_eq hp 1 _ (by simp)
  subst hb0 hb1
  refine ⟨frame_of_badSync, frame_of_transportError, fun hsync htei => ?_⟩
  cases hf : frame p with
  | error e => exact .inl (congrArg _ (frame_error_of_header_good hsync htei hf))
  | ok f => exact .inr ⟨f, rfl⟩

end Sys2Proof.Machine
end

section
/-!
PROOFS. 41_section_accumulator.md R121: an awaiting accumulator and a packet without unit-start. One rule per operation an
ACCEPT goes through, then the obligation as their chain.
-/

namespace Sys2Proof.Machine

open Sys2Proof.Config

@[simp] theorem State.counted_accum (s : State) (p q : Nat) : (s.counted p).accum q = s.accum q := rfl

@[simp] theorem State.counted_seenBit (s : State) (p q : Nat) :
    (s.counted p).seenBit q = if q = p then true else s.seenBit q := State.setSeen_seenBit ..

/-- R140: with no fault, ACCEPT of a framed packet routes it and answers the status routing ends with. -/
theorem exec_accept_of_framed {p : Bytes 188} {f : Framed} {s : State} (hframe : frame p = .ok f)
    (hfatal : s.fatal = false) :
    exec (.accept p) s = .next ((routePacket s f).1.raise (routePacket s f).2) := by
  simp [exec, execAccept, acceptFramed, hframe, hfatal]

/-- R142 to R145: a packet of another PID than the null one goes, once counted, to the accumulator of its PID. -/
theorem routePacket_of_ne_null {f : Framed} (s : State) (hpid : f.pid ≠ NULL_PID) :
    routePacket s f = accStep (s.counted f.pid.toNat) f := if_neg hpid

theorem accStep_of_awaitingStart {s : State} {f : Framed} (hstate : (s.accum f.pid.toNat).state = .awaitingStart) :
    accStep s f = awaitingStart s f.pid.toNat f := by
  simp only [accStep, hstate]

/-- R121: the packet is ignored. -/
theorem awaitingStart_of_no_unitStart {s : State} {p : Nat} {f : Framed} (hbuf : (s.accum p).buf = [])
    (hpusi : f.pusi = false) : awaitingStart s p f = (s, .ok) := by
  simp [awaitingStart, hbuf, hpusi]

/-- R121, R142, R144: all that ACCEPT leaves of an ignored packet is its count and the seen bit of its PID. -/
theorem routePacket_of_ignored {s : State} {f : Framed} (hpid : f.pid ≠ NULL_PID)
    (hstate : (s.accum f.pid.toNat).state = .awaitingStart) (hbuf : (s.accum f.pid.toNat).buf = [])
    (hpusi : f.pusi = false) : routePacket s f = (s.counted f.pid.toNat, .ok) := by
  rw [routePacket_of_ne_null s hpid, accStep_of_awaitingStart (by rwa [State.counted_accum]),
    awaitingStart_of_no_unitStart (by rwa [State.counted_accum]) hpusi]

/-- Settles O29: the state left is the counted one with the answer OK, whose seen bits are those of `State.counted`. -/
theorem awaitingIgnoresAPacketWithoutUnitStart : Obligations.AwaitingIgnoresAPacketWithoutUnitStart := by
  unfold Obligations.AwaitingIgnoresAPacketWithoutUnitStart
  intro p f s hframe hpid hfatal hstate hbuf hpusi
  have hroute := routePacket_of_ignored hpid hstate hbuf hpusi
  refine ⟨(s.counted f.pid.toNat).raise .ok, ?_, ?_, fun q hq => ?_, rfl⟩
  · rw [exec_accept_of_framed hframe hfatal, hroute]
  · simp
  · simp [hq]

end Sys2Proof.Machine
end

section
/-!
PROOFS. 42_demultiplexer.md R143: the null packet, whose ACCEPT ends after the count, before the seen bit of R144 is set
and the accumulator of R145 is reached.
-/

namespace Sys2Proof.Machine

open Sys2Proof.Config

/-- R143: of a null packet, routing makes the count of R142 and no more. -/
theorem routePacket_of_null {f : Framed} (s : State) (hpid : f.pid = NULL_PID) :
    routePacket s f = (s.countPacket, .ok) := if_pos hpid

/-- Settles O28: a framed packet is routed, and routing a null packet only counts it; the count and the answer OK are the
two fields the statement writes. -/
theorem nullPacketIsOnlyCounted : Obligations.NullPacketIsOnlyCounted := by
  unfold Obligations.NullPacketIsOnlyCounted
  intro p f s hframe hpid hfatal
  calc exec (.accept p) s
      = .next ((routePacket s f).1.raise (routePacket s f).2) := exec_accept_of_framed hframe hfatal
    _ = .next (s.countPacket.raise .ok) := by rw [routePacket_of_null s hpid]
    _ = .next { s with
          totalPackets := (s.totalPackets + 1) % 2 ^ s.params.cntW.val, rsp := s.rsp ++ [⟨.ok, []⟩] } := rfl

end Sys2Proof.Machine
end

section
/-!
PROOFS. 43_section_header.md R161, R163: a section too short for its header. The header decode's failure is shown once, for
R161's three bytes and R163's eight; the commands that decode a header hand it on as their answer.
-/

namespace Sys2Proof.Machine

/-- R163: behind the three bytes of the basic header the long form has five more. -/
theorem longHeader_of_length_lt_five (tableId : Byte) (sectionLength : BitVec 12) {rest : List Byte}
    (hlen : rest.length < 5) : longHeader tableId sectionLength rest = .error .sectionTruncated := by
  unfold longHeader
  split
  · simp only [List.length_cons] at hlen
    omega
  · rfl

theorem hdr_of_syntaxIndicator {s1 : Byte} (hssi : ssiOf s1 = true) (s0 s2 : Byte) (rest : List Byte) :
    hdr (s0 :: s1 :: s2 :: rest) = longHeader s0 (sectionLengthOf s1 s2) rest := if_pos hssi

/-- R161. -/
theorem hdr_of_length_lt_three {sec : List Byte} (hlen : sec.length < 3) : hdr sec = .error .sectionTruncated := by
  unfold hdr
  split
  · simp only [List.length_cons] at hlen
    omega
  · rfl

/-- R163: of three bytes or more the header decode goes on into the long form, which has not all its bytes. -/
theorem hdr_of_long_of_length_lt_eight {sec : List Byte} {s1 : Byte} (hlen : sec.length < 8) (hs1 : sec[1]? = some s1)
    (hssi : ssiOf s1 = true) : hdr sec = .error .sectionTruncated := by
  match sec with
  | [] | [_] | [_, _] => exact hdr_of_length_lt_three (by simp)
  | s0 :: _ :: s2 :: rest =>
    cases hs1
    rw [hdr_of_syntaxIndicator hssi]
    refine longHeader_of_length_lt_five _ _ ?_
    simp only [List.length_cons] at hlen
    omega

theorem parseAnswer_of_error {pid16 : BitVec 16} (hpid : pid16.toNat ≤ 0x1FFF) (s : State) (e : Status) :
    parseAnswer s pid16 (.error e) = s.raise e := by
  simp [parseAnswer, (pidBad_iff pid16).2 hpid]

/-- R170: no selector is looked at when the header decode fails. -/
theorem getAnswer_of_error {pid16 : BitVec 16} {sec : List Byte} {e : Status} (hpid : pid16.toNat ≤ 0x1FFF)
    (hhdr : hdr sec = .error e) (s : State) (field : Header → Option (BitVec 16)) :
    getAnswer s pid16 sec field = s.raise e := by
  simp [getAnswer, (pidBad_iff pid16).2 hpid, hhdr]

/-- Settles O20: SECHDR_PARSE and the nine selectors answer the failure of the one header decode, SH.LONG that of the long
form's. -/
theorem tooFewBytesIsSectionTruncated : Obligations.TooFewBytesIsSectionTruncated := by
  unfold Obligations.TooFewBytesIsSectionTruncated
  intro pid16 sec s hpid
  constructor
  · intro hshort
    have hhdr : hdr sec = .error .sectionTruncated := by
      obtain hlen | ⟨hlen, s1, hs1, hssi⟩ := hshort
      · exact hdr_of_length_lt_three hlen
      · exact hdr_of_long_of_length_lt_eight hlen hs1 hssi
    have hparse : execSechdrParse pid16 sec s = .next (s.raise .sectionTruncated) := by
      rw [execSechdrParse, hhdr, parseAnswer_of_error hpid]
    have hget (field : Header → Option (BitVec 16)) :
        .next (getAnswer s pid16 sec field) = (.next (s.raise .sectionTruncated) : Host.Outcome State Fault Refusal) :=
      congrArg _ (getAnswer_of_error hpid hhdr s field)
    simp only [List.forall_mem_cons]
    exact ⟨hparse, hget Header.tableId?, hget Header.syntaxIndicator?, hget Header.sectionLength?,
      hget Header.tableIdExtension?, hget Header.versionNumber?, hget Header.currentNext?, hget Header.sectionNumber?,
      hget Header.lastSectionNumber?, hget Header.bodyOffset?, nofun⟩
  · intro head rest hlen
    calc exec (.shLong pid16 head rest) s
        = .next (parseAnswer s pid16 (longHeader head.tableId head.sectionLength rest)) := rfl
      _ = .next (s.raise .sectionTruncated) := by
        rw [longHeader_of_length_lt_five _ _ hlen, parseAnswer_of_error hpid]

end Sys2Proof.Machine
end

section
/-!
PROOFS. 44_host_commands.md R182: READ_ACC. What its operand checks let through, the selectors of R37, and why both
counters read 0 wherever R182 says so: there the accumulator awaits a section start, and R29 keeps its counters at 0.
-/

namespace Sys2Proof.Machine

/-- R81, R182: the PID operand is checked first. -/
theorem exec_readAcc_of_pid_gt {pid16 : BitVec 16} (hpid : 0x1FFF < pid16.toNat) (sel8 : Byte) (s : State) :
    exec (.readAcc pid16 sel8) s = .next (s.raise .badOperand) := by
  have hbad : pidBad pid16 = true := by
    rw [← Bool.not_eq_false, pidBad_iff]
    omega
  exact congrArg _ (if_pos hbad)

/-- R182: of a PID in range the counter that the selector names is answered. -/
theorem exec_readAcc_of_pid_le {pid16 : BitVec 16} (hpid : pid16.toNat ≤ 0x1FFF) (sel8 : Byte) (s : State) :
    exec (.readAcc pid16 sel8) s = .next (readAnswer s ((s.accum pid16.toNat).counter sel8)) := by
  simp [exec, execReadAcc, (pidBad_iff pid16).2 hpid]

/-- R37: there are two counters. -/
theorem Accum.counter_of_one_lt (a : Accum) {sel8 : Byte} (hsel : 1 < sel8.toNat) : a.counter sel8 = none := by
  unfold Accum.counter
  split
  · omega
  · omega
  · rfl

/-- R29: both counters of an accumulator that awaits a section start are 0. -/
theorem Accum.counter_of_awaitingStart {p : Config.Params} {a : Accum} (hok : a.ok p)
    (hstate : a.state = .awaitingStart) {sel8 : Byte} (hsel : sel8.toNat ≤ 1) : a.counter sel8 = some 0 := by
  simp only [Accum.ok, hstate] at hok
  obtain ⟨_, hpkts, hbytes⟩ := hok
  obtain h0 | h1 := Nat.le_one_iff_eq_zero_or_eq_one.1 hsel
  · simp [Accum.counter, h0, hpkts]
  · simp [Accum.counter, h1, hbytes]

/-- R28: the accumulator of a PID never seen is as reset leaves it. -/
theorem State.accum_of_not_seen {s : State} (hseen : s.seenCovers) {p : Nat} (hp : s.seenBit p = false) :
    s.accum p = Accum.idle := by
  by_contra hne
  rw [hseen p hne] at hp
  cases hp

/-- R182: the null PID and a PID never seen are awaiting a section start too. -/
theorem State.awaitingStart_of_null_or_not_seen {s : State} {pid16 : BitVec 16} (hnull : s.nullPidUntouched)
    (hseen : s.seenCovers)
    (h : pid16 = 0x1FFF ∨ s.seenBit pid16.toNat = false ∨ (s.accum pid16.toNat).state = .awaitingStart) :
    (s.accum pid16.toNat).state = .awaitingStart := by
  obtain rfl | hunseen | hstate := h
  · exact congrArg Accum.state hnull.1
  · rw [State.accum_of_not_seen hseen hunseen, Accum.idle]
  · exact hstate

/-- Settles O15: a bad PID is answered by the operand check and a bad selector by R37, which has no such counter; of the
three cases that read 0, the first two are cases of the third. -/
theorem readAccAnswersTheCounter : Obligations.ReadAccAnswersTheCounter := by
  unfold Obligations.ReadAccAnswersTheCounter
  intro pid16 sel8 s
  refine ⟨fun hbad => ?_, fun hpid => ⟨exec_readAcc_of_pid_le hpid 0 s, exec_readAcc_of_pid_le hpid 1 s⟩,
    fun hpid hsel hok hnull hseen hzero => ?_⟩
  · obtain hpid | hpid := Nat.lt_or_ge 0x1FFF pid16.toNat
    · exact exec_readAcc_of_pid_gt hpid sel8 s
    · have hsel : 1 < sel8.toNat := hbad.resolve_left (Nat.not_lt.2 hpid)
      rw [exec_readAcc_of_pid_le hpid, Accum.counter_of_one_lt _ hsel]
      rfl
  · have hstate := State.awaitingStart_of_null_or_not_seen hnull hseen hzero
    rw [exec_readAcc_of_pid_le hpid, Accum.counter_of_awaitingStart (hok pid16.toNat) hstate hsel]
    rfl

end Sys2Proof.Machine
end

section
/-!
PROOFS. 30_encoding.md R70 to R91, opcode_table.json: decoding and encoding undo each other, at the level of command words
and at the level of the packet and section-header forms.
-/

namespace Sys2Proof

/-! ### From an instruction to its word and back -/

theorem isCommand_iff (i : Instr) : i.isCommand = true ↔ i.command = i := beq_iff_eq

/-- The word of a form is that of the command that carries it. -/
theorem encode_command (i : Instr) : encode i.command = encode i := by cases i <;> rfl

/-- R72. -/
theorem decode_packet (p : Bytes 188) (rest : List Byte) :
    decode (0x01 :: (p.data ++ rest)) = .instr (.accept p) rest := by
  change decodeAccept (p.data ++ rest) = _
  rw [decodeAccept, splitBytes_append]

/-- R78: `len32` tells where the section ends. -/
theorem decodeParse_secOperands (pid16 : BitVec 16) {sec : List Byte} (hlen : secFits sec.length = true)
    (rest : List Byte) : decodeParse (secOperands pid16 sec ++ rest) = .instr (.sechdrParse pid16 sec) rest := by
  simp [secOperands, word16_eq, beBytes_four, decodeParse, be32_beBytes (Laws.fits hlen)]

/-- R79: the selector names the row, `len32` tells where the section ends. -/
theorem decodeGet_secOperands {sel : Byte} {pid16 : BitVec 16} {sec : List Byte} {i : Instr}
    (hlen : secFits sec.length = true) (hrow : getterOf sel pid16 sec = some i) (rest : List Byte) :
    decodeGet (sel :: (secOperands pid16 sec ++ rest)) = .instr i rest := by
  simp [secOperands, word16_eq, beBytes_four, decodeGet, be32_beBytes (Laws.fits hlen), hrow]

/-- R70 to R80: the word of a well-formed instruction reads back as the command that carries it. -/
theorem decode_encode {i : Instr} (hwf : i.wellFormed = true) (rest : List Byte) :
    decode (encode i ++ rest) = .instr i.command rest := by
  cases i with
  | accept p => exact decode_packet p rest
  | registerHandler pid16 h16 =>
    exact congrArg₂ (fun p h => Decoded.instr (.registerHandler p h) rest) (be16_extract pid16) (be16_extract h16)
  | unregisterHandler pid16 => exact congrArg (fun p => Decoded.instr (.unregisterHandler p) rest) (be16_extract pid16)
  | addObserver o16 => exact congrArg (fun o => Decoded.instr (.addObserver o) rest) (be16_extract o16)
  | readCsr n8 => rfl
  | readAcc pid16 sel8 => exact congrArg (fun p => Decoded.instr (.readAcc p sel8) rest) (be16_extract pid16)
  | sechdrParse pid16 sec => exact decodeParse_secOperands pid16 hwf rest
  | sechdrGetTableId pid16 sec => exact decodeGet_secOperands (sel := 0) hwf rfl rest
  | sechdrGetSyntaxIndicator pid16 sec => exact decodeGet_secOperands (sel := 1) hwf rfl rest
  | sechdrGetSectionLength pid16 sec => exact decodeGet_secOperands (sel := 2) hwf rfl rest
  | sechdrGetTableIdExtension pid16 sec => exact decodeGet_secOperands (sel := 3) hwf rfl rest
  | sechdrGetVersionNumber pid16 sec => exact decodeGet_secOperands (sel := 4) hwf rfl rest
  | sechdrGetCurrentNext pid16 sec => exact decodeGet_secOperands (sel := 5) hwf rfl rest
  | sechdrGetSectionNumber pid16 sec => exact decodeGet_secOperands (sel := 6) hwf rfl rest
  | sechdrGetLastSectionNumber pid16 sec => exact decodeGet_secOperands (sel := 7) hwf rfl rest
  | sechdrGetBodyOffset pid16 sec => exact decodeGet_secOperands (sel := 8) hwf rfl rest
  | reset => rfl
  | tsTei low7 more => exact decode_packet (packetOfTei low7 more) rest
  | tsP h body => exact decode_packet (packetOf false false h body) rest
  | tsAp h body => exact decode_packet (packetOf false true h body) rest
  | tsSp h body => exact decode_packet (packetOf true false h body) rest
  | tsAsp h body => exact decode_packet (packetOf true true h body) rest
  | tsBadsync p => exact decode_packet p rest
  | shLong pid16 h more => exact decodeParse_secOperands pid16 (sec := sectionOf true h more) hwf rest
  | shShort pid16 h more => exact decodeParse_secOperands pid16 (sec := sectionOf false h more) hwf rest

/-! ### The forms of a packet -/

/-- R83: the form row of a packet with good sync and clear error bit. -/
def goodForm (pusi adaptation : Bool) (h : TsHeader) (body : Bytes 184) : Instr :=
  match pusi, adaptation with
  | false, false => .tsP h body
  | false, true => .tsAp h body
  | true, false => .tsSp h body
  | true, true => .tsAsp h body

theorem goodForm_command (u a : Bool) (h : TsHeader) (body : Bytes 184) :
    (goodForm u a h body).command = .accept (packetOf u a h body) := by cases u <;> cases a <;> rfl

theorem goodForm_wellFormed (u a : Bool) (h : TsHeader) (body : Bytes 184) :
    (goodForm u a h body).wellFormed = true := by cases u <;> cases a <;> rfl

theorem packetForm_of_badSync {p : Bytes 188} (hsync : p.get 0 (by decide) ≠ Config.SYNC) :
    packetForm p = .tsBadsync p := if_pos (bne_iff_ne.2 hsync)

theorem packetForm_of_tei {p : Bytes 188} (hsync : p.get 0 (by decide) = Config.SYNC)
    (htei : teiOf (p.get 1 (by decide)) = true) :
    packetForm p = .tsTei ((p.get 1 (by decide)).extractLsb' 0 7) (p.tail 2) := by
  simp [packetForm, hsync, htei]

theorem packetForm_of_good {p : Bytes 188} (hsync : p.get 0 (by decide) = Config.SYNC)
    (htei : teiOf (p.get 1 (by decide)) = false) :
    packetForm p = goodForm (pusiOf (p.get 1 (by decide))) (adaptationOf (p.get 3 (by decide)))
      (headerOf (p.get 1 (by decide)) (p.get 2 (by decide)) (p.get 3 (by decide))) (p.tail 4) := by
  simp only [packetForm, hsync, htei, bne_self_eq_false, Bool.false_eq_true, ↓reduceIte]
  cases pusiOf (p.get 1 (by decide)) <;> cases adaptationOf (p.get 3 (by decide)) <;> rfl

/-- R82, R83: the fields put into a header are the fields read out of it. -/
theorem packetForm_packetOf (u a : Bool) (h : TsHeader) (body : Bytes 184) :
    packetForm (packetOf u a h body) = goodForm u a h body := by
  have h1 : (packetOf u a h body).get 1 (by decide) = tsByte1 false u h.prio h.pid := rfl
  have h2 : (packetOf u a h body).get 2 (by decide) = h.pid.extractLsb' 0 8 := rfl
  have h3 : (packetOf u a h body).get 3 (by decide) = tsByte3 h.tsc a h.payloadPresent h.cc := rfl
  rw [packetForm_of_good rfl (by rw [h1, teiOf_tsByte1]), h1, h2, h3, pusiOf_tsByte1, adaptationOf_tsByte3]
  congr 1
  rw [headerOf, prioOf_tsByte1, pidOf_tsByte1, tscOf_tsByte3, payloadOf_tsByte3, ccOf_tsByte3]

theorem packetForm_packetOfTei (low7 : BitVec 7) (rest : Bytes 186) :
    packetForm (packetOfTei low7 rest) = .tsTei low7 rest := by
  have h1 : (packetOfTei low7 rest).get 1 (by decide) = BitVec.ofBool true ++ low7 := rfl
  rw [packetForm_of_tei rfl (by rw [h1, teiOf_highBit]), h1, low7_highBit]
  rfl

theorem Bytes.get_zero_of_head? {n : Nat} (p : Bytes n) (h : 0 < n) : p.data.head? = some (p.get 0 h) := by
  rw [List.head?_eq_getElem?]
  exact List.getElem?_eq_getElem _

/-- R83: TS.BADSYNC is the form of the packets its well-formedness admits. -/
theorem tsBadsync_wellFormed_iff (p : Bytes 188) :
    (Instr.tsBadsync p).wellFormed = true ↔ p.get 0 (by decide) ≠ Config.SYNC := by
  simp [Instr.wellFormed, p.get_zero_of_head? (by decide)]

theorem Bytes.data_eq_two (p : Bytes 188) :
    p.data = p.get 0 (by decide) :: p.get 1 (by decide) :: p.data.drop 2 := by
  obtain ⟨data, size⟩ := p
  match data with
  | _ :: _ :: _ => rfl

theorem Bytes.data_eq_four (p : Bytes 188) :
    p.data = p.get 0 (by decide) :: p.get 1 (by decide) :: p.get 2 (by decide) :: p.get 3 (by decide)
      :: p.data.drop 4 := by
  obtain ⟨data, size⟩ := p
  match data with
  | _ :: _ :: _ :: _ :: _ => rfl

theorem packetOf_data (u a : Bool) (h : TsHeader) (body : Bytes 184) :
    (packetOf u a h body).data = Config.SYNC :: tsByte1 false u h.prio h.pid :: h.pid.extractLsb' 0 8
      :: tsByte3 h.tsc a h.payloadPresent h.cc :: body.data := rfl

theorem packetOfTei_data (low7 : BitVec 7) (rest : Bytes 186) :
    (packetOfTei low7 rest).data = Config.SYNC :: (BitVec.ofBool true ++ low7) :: rest.data := rfl

/-- R82: a packet with good sync and clear error bit is put together from its own fields. -/
theorem packetOf_fields {p : Bytes 188} (hsync : p.get 0 (by decide) = Config.SYNC)
    (htei : teiOf (p.get 1 (by decide)) = false) :
    packetOf (pusiOf (p.get 1 (by decide))) (adaptationOf (p.get 3 (by decide)))
      (headerOf (p.get 1 (by decide)) (p.get 2 (by decide)) (p.get 3 (by decide))) (p.tail 4) = p := by
  have h1 := tsByte1_fields (p.get 1 (by decide)) (p.get 2 (by decide))
  rw [htei] at h1
  refine Bytes.ext_data (Eq.trans ?_ p.data_eq_four.symm)
  rw [packetOf_data, headerOf, h1, pidOf_low, tsByte3_fields, hsync, Bytes.tail_data]

/-- R102: a packet with good sync and the error bit set is put together from its own fields. -/
theorem packetOfTei_fields {p : Bytes 188} (hsync : p.get 0 (by decide) = Config.SYNC)
    (htei : teiOf (p.get 1 (by decide)) = true) :
    packetOfTei ((p.get 1 (by decide)).extractLsb' 0 7) (p.tail 2) = p := by
  refine Bytes.ext_data (Eq.trans ?_ p.data_eq_two.symm)
  rw [packetOfTei_data, highBit_low7 _ htei, hsync, Bytes.tail_data]

/-- R83: the form of a packet is well-formed, and that packet is the one the form stands for. -/
theorem packetForm_spec (p : Bytes 188) :
    (packetForm p).wellFormed = true ∧ (packetForm p).command = .accept p := by
  by_cases hsync : p.get 0 (by decide) = Config.SYNC
  · cases htei : teiOf (p.get 1 (by decide)) with
    | true => rw [packetForm_of_tei hsync htei, Instr.command, packetOfTei_fields hsync htei]; exact ⟨rfl, rfl⟩
    | false =>
      rw [packetForm_of_good hsync htei, goodForm_command, packetOf_fields hsync htei]
      exact ⟨goodForm_wellFormed .., rfl⟩
  · rw [packetForm_of_badSync hsync]
    exact ⟨(tsBadsync_wellFormed_iff p).2 hsync, rfl⟩

/-! ### The forms of a section header -/

/-- R91: the form row of a section with at least three bytes. -/
def headForm (ssi : Bool) (pid16 : BitVec 16) (h : SecHead) (rest : List Byte) : Instr :=
  if ssi then .shLong pid16 h rest else .shShort pid16 h rest

theorem headForm_command (b : Bool) (pid16 : BitVec 16) (h : SecHead) (rest : List Byte) :
    (headForm b pid16 h rest).command = .sechdrParse pid16 (sectionOf b h rest) := by cases b <;> rfl

theorem headForm_wellFormed (b : Bool) (pid16 : BitVec 16) (h : SecHead) (rest : List Byte) :
    (headForm b pid16 h rest).wellFormed = secFits (rest.length + 3) := by cases b <;> rfl

theorem sectionForm_cons (pid16 : BitVec 16) (s0 s1 s2 : Byte) (rest : List Byte) :
    sectionForm pid16 (s0 :: s1 :: s2 :: rest) =
      headForm (ssiOf s1) pid16 ⟨s0, secUnreadOf s1, sectionLengthOf s1 s2⟩ rest := rfl

/-- R90: the fields put into a header head are the fields read out of it. -/
theorem sectionForm_sectionOf (b : Bool) (pid16 : BitVec 16) (h : SecHead) (rest : List Byte) :
    sectionForm pid16 (sectionOf b h rest) = headForm b pid16 h rest := by
  rw [sectionOf, sectionForm_cons, ssiOf_assembled, secUnreadOf_assembled, sectionLengthOf_assembled]

/-- R90: a section of three bytes or more is put together from its own fields. -/
theorem sectionOf_fields (s0 s1 s2 : Byte) (rest : List Byte) :
    sectionOf (ssiOf s1) ⟨s0, secUnreadOf s1, sectionLengthOf s1 s2⟩ rest = s0 :: s1 :: s2 :: rest := by
  rw [sectionOf, secByte1_fields, sectionLengthOf_low]

/-- R91: the form of a section is well-formed if its length fits, and stands for that section. -/
theorem sectionForm_spec (pid16 : BitVec 16) (sec : List Byte) :
    (sectionForm pid16 sec).wellFormed = secFits sec.length ∧
      (sectionForm pid16 sec).command = .sechdrParse pid16 sec := by
  match sec with
  | [] | [_] | [_, _] => exact ⟨rfl, rfl⟩
  | s0 :: s1 :: s2 :: rest =>
    rw [sectionForm_cons, headForm_command, sectionOf_fields, headForm_wellFormed]
    exact ⟨rfl, rfl⟩

/-! ### Both levels -/

/-- The second level reads a form back from the command that carries it. -/
theorem command_form {i : Instr} (hwf : i.wellFormed = true) (hform : i.isCommand = false) : i.command.form = i := by
  have hno : i.command ≠ i := fun h => by rw [(isCommand_iff i).2 h] at hform; cases hform
  cases i with
  | tsTei low7 rest => exact packetForm_packetOfTei low7 rest
  | tsP h body => exact packetForm_packetOf false false h body
  | tsAp h body => exact packetForm_packetOf false true h body
  | tsSp h body => exact packetForm_packetOf true false h body
  | tsAsp h body => exact packetForm_packetOf true true h body
  | tsBadsync p => exact packetForm_of_badSync ((tsBadsync_wellFormed_iff p).1 hwf)
  | shLong pid16 h rest => exact sectionForm_sectionOf true pid16 h rest
  | shShort pid16 h rest => exact sectionForm_sectionOf false pid16 h rest
  | _ => exact absurd rfl hno

/-- The form of an instruction stands for the same command. -/
theorem form_command (i : Instr) : i.form.command = i.command := by
  cases i with
  | accept p => exact (packetForm_spec p).2
  | sechdrParse pid16 sec => exact (sectionForm_spec pid16 sec).2
  | _ => rfl

theorem form_wellFormed {i : Instr} (hwf : i.wellFormed = true) : i.form.wellFormed = true := by
  cases i with
  | accept p => exact (packetForm_spec p).1
  | sechdrParse pid16 sec => exact (sectionForm_spec pid16 sec).1.trans hwf
  | _ => exact hwf

/-- Settles O1: the first level reads back the carrying command, from which the second reads the form. -/
theorem decodeEncodeRoundTrip : Obligations.DecodeEncodeRoundTrip := by
  unfold Obligations.DecodeEncodeRoundTrip
  intro i rest hwf
  have hdecode := decode_encode hwf rest
  refine ⟨fun hcmd => ?_, fun hform => ?_⟩
  · rw [hdecode, (isCommand_iff i).1 hcmd]
  · rw [decodeForm, hdecode]
    exact congrArg (Decoded.instr · rest) (command_form hwf hform)

/-! ### From the bytes to an instruction and back -/

/-- Should `d` be an instruction, it is a well-formed command whose word, with the bytes left over behind it, is `bs`. -/
def ReadsFrom (bs : List Byte) (d : Decoded) : Prop :=
  ∀ i rest, d = .instr i rest → i.wellFormed = true ∧ i.isCommand = true ∧ encode i ++ rest = bs

theorem readsFrom_instr {bs rest : List Byte} {i : Instr} (hwf : i.wellFormed = true) (hcmd : i.isCommand = true)
    (hbs : encode i ++ rest = bs) : ReadsFrom bs (.instr i rest) := by
  rintro j r ⟨⟩
  exact ⟨hwf, hcmd, hbs⟩

theorem isCommand_of_command {i : Instr} (h : i.command = i) : i.isCommand = true := (isCommand_iff i).2 h

theorem decodeAccept_readsFrom (bs : List Byte) : ReadsFrom (0x01 :: bs) (decodeAccept bs) := by
  unfold decodeAccept
  split
  · next p rest h => exact readsFrom_instr rfl (isCommand_of_command rfl) (congrArg _ (splitBytes_some h))
  · exact nofun

theorem decodeRegister_readsFrom (bs : List Byte) : ReadsFrom (0x02 :: bs) (decodeRegister bs) := by
  unfold decodeRegister
  split
  · exact readsFrom_instr rfl (isCommand_of_command rfl) (by simp only [encode, word16_be16]; rfl)
  · exact nofun

theorem decodeUnregister_readsFrom (bs : List Byte) : ReadsFrom (0x03 :: bs) (decodeUnregister bs) := by
  unfold decodeUnregister
  split
  · exact readsFrom_instr rfl (isCommand_of_command rfl) (by simp only [encode, word16_be16]; rfl)
  · exact nofun

theorem decodeAddObserver_readsFrom (bs : List Byte) : ReadsFrom (0x04 :: bs) (decodeAddObserver bs) := by
  unfold decodeAddObserver
  split
  · exact readsFrom_instr rfl (isCommand_of_command rfl) (by simp only [encode, word16_be16]; rfl)
  · exact nofun

theorem decodeReadCsr_readsFrom (bs : List Byte) : ReadsFrom (0x05 :: bs) (decodeReadCsr bs) := by
  unfold decodeReadCsr
  split
  · exact readsFrom_instr rfl (isCommand_of_command rfl) rfl
  · exact nofun

theorem decodeReadAcc_readsFrom (bs : List Byte) : ReadsFrom (0x06 :: bs) (decodeReadAcc bs) := by
  unfold decodeReadAcc
  split
  · exact readsFrom_instr rfl (isCommand_of_command rfl) (by simp only [encode, word16_be16]; rfl)
  · exact nofun

/-- R78, R79: the operands of a section cut out by `len32` are the bytes they were read from. -/
theorem secOperands_take (p1 p0 l3 l2 l1 l0 : Byte) {t : List Byte} (hlen : be32 l3 l2 l1 l0 ≤ t.length) :
    secOperands (be16 p1 p0) (t.take (be32 l3 l2 l1 l0)) ++ t.drop (be32 l3 l2 l1 l0) =
      p1 :: p0 :: l3 :: l2 :: l1 :: l0 :: t := by
  rw [secOperands, List.length_take_of_le hlen, beBytes_be32, word16_be16]
  simp

theorem secFits_take (l3 l2 l1 l0 : Byte) {t : List Byte} (hlen : be32 l3 l2 l1 l0 ≤ t.length) :
    secFits (t.take (be32 l3 l2 l1 l0)).length = true := by
  rw [List.length_take_of_le hlen]
  exact decide_eq_true (be32_lt ..)

theorem decodeParse_readsFrom (bs : List Byte) : ReadsFrom (0x10 :: bs) (decodeParse bs) := by
  unfold decodeParse
  split
  · split
    · next hlen =>
      exact readsFrom_instr (secFits_take _ _ _ _ hlen) (isCommand_of_command rfl)
        (congrArg _ (secOperands_take _ _ _ _ _ _ hlen))
    · exact nofun
  · exact nofun

theorem byte_eq_ofNat {b : Byte} {n : Nat} (h : b.toNat = n) : b = BitVec.ofNat 8 n := by
  rw [← h, BitVec.ofNat_toNat, BitVec.setWidth_eq]

/-- R79: a row of SECHDR_GET is a command, and its word holds the selector that names it. -/
theorem getterOf_some {sel : Byte} {pid16 : BitVec 16} {sec : List Byte} {i : Instr}
    (h : getterOf sel pid16 sec = some i) :
    i.wellFormed = secFits sec.length ∧ i.isCommand = true ∧ encode i = 0x11 :: sel :: secOperands pid16 sec := by
  unfold getterOf at h
  split at h
  case h_10 => cases h
  all_goals
    next hn =>
    cases h
    rw [byte_eq_ofNat hn]
    exact ⟨rfl, isCommand_of_command rfl, rfl⟩

theorem decodeGet_readsFrom (bs : List Byte) : ReadsFrom (0x11 :: bs) (decodeGet bs) := by
  unfold decodeGet
  split
  · split
    · next hlen =>
      split
      · next i hrow =>
        obtain ⟨hwf, hcmd, hword⟩ := getterOf_some hrow
        refine readsFrom_instr (hwf.trans (secFits_take _ _ _ _ hlen)) hcmd ?_
        rw [hword]
        exact congrArg (0x11 :: _ :: ·) (secOperands_take _ _ _ _ _ _ hlen)
      · exact nofun
    · exact nofun
  · exact nofun

theorem decodeWith_readsFrom (op : Byte) (bs : List Byte) : ReadsFrom (op :: bs) (decodeWith op bs) := by
  unfold decodeWith
  split
  case h_1 hn => rw [byte_eq_ofNat hn]; exact decodeAccept_readsFrom bs
  case h_2 hn => rw [byte_eq_ofNat hn]; exact decodeRegister_readsFrom bs
  case h_3 hn => rw [byte_eq_ofNat hn]; exact decodeUnregister_readsFrom bs
  case h_4 hn => rw [byte_eq_ofNat hn]; exact decodeAddObserver_readsFrom bs
  case h_5 hn => rw [byte_eq_ofNat hn]; exact decodeReadCsr_readsFrom bs
  case h_6 hn => rw [byte_eq_ofNat hn]; exact decodeReadAcc_readsFrom bs
  case h_7 hn => rw [byte_eq_ofNat hn]; exact decodeParse_readsFrom bs
  case h_8 hn => rw [byte_eq_ofNat hn]; exact decodeGet_readsFrom bs
  case h_9 hn => rw [byte_eq_ofNat hn]; exact readsFrom_instr rfl (isCommand_of_command rfl) rfl
  case h_10 => exact nofun

theorem decode_readsFrom (bs : List Byte) : ReadsFrom bs (decode bs) := by
  cases bs with
  | nil => exact nofun
  | cons op bs => exact decodeWith_readsFrom op bs

/-- What the second level reads is the form of what the first level reads. -/
theorem decodeForm_eq_instr {bs rest : List Byte} {i : Instr} (h : decodeForm bs = .instr i rest) :
    ∃ j, decode bs = .instr j rest ∧ i = j.form := by
  unfold decodeForm at h
  split at h
  · next j r hd =>
    cases h
    exact ⟨j, hd, rfl⟩
  · next d hd => exact absurd h (hd i rest)

/-- Settles O2: a command is read from its own word, and its form has the same word. -/
theorem encodeDecodeGivesTheBytesBack : Obligations.EncodeDecodeGivesTheBytesBack := by
  unfold Obligations.EncodeDecodeGivesTheBytesBack
  intro bs i rest
  refine ⟨decode_readsFrom bs i rest, fun h => ?_⟩
  obtain ⟨j, hdecode, rfl⟩ := decodeForm_eq_instr h
  obtain ⟨hwf, _, hbs⟩ := decode_readsFrom bs j rest hdecode
  refine ⟨form_wellFormed hwf, ?_⟩
  rw [← encode_command, form_command, encode_command, hbs]

/-- Settles O3: nine closed words. -/
theorem writtenOutWordsDecode : Obligations.WrittenOutWordsDecode := by
  unfold Obligations.WrittenOutWordsDecode
  decide

end Sys2Proof
end

section
/-!
PROOFS. 30_encoding.md R83: the rows of the packet forms by mask and match. A masked word is compared byte by byte, and the
masked bytes are the sync byte and the flags the second level of decoding looks at.
-/

namespace Sys2Proof

theorem append_eq_append_iff {w v : Nat} {x x' : BitVec w} {y y' : BitVec v} :
    x ++ y = x' ++ y' ↔ x = x' ∧ y = y' := by
  refine ⟨fun h => ⟨?_, ?_⟩, fun ⟨hx, hy⟩ => by rw [hx, hy]⟩
  · rw [← extract_hi x y, h, extract_hi]
  · rw [← extract_lo x y, h, extract_lo]

/-- A mask and match of four bytes is one of each byte. -/
theorem masked_word_iff (b0 b1 b2 b3 m0 m1 m2 m3 v0 v1 v2 v3 : Byte) :
    (b0 ++ b1 ++ b2 ++ b3 : BitVec 32) &&& (m0 ++ m1 ++ m2 ++ m3 : BitVec 32) = (v0 ++ v1 ++ v2 ++ v3 : BitVec 32) ↔
      b0 &&& m0 = v0 ∧ b1 &&& m1 = v1 ∧ b2 &&& m2 = v2 ∧ b3 &&& m3 = v3 := by
  rw [BitVec.and_append, append_eq_append_iff, BitVec.and_append, append_eq_append_iff, BitVec.and_append,
    append_eq_append_iff]
  tauto

theorem sync_masked_iff (b0 : Byte) : b0 &&& 0xFF = 0x47 ↔ b0 = Config.SYNC := by revert b0; decide

theorem unread_masked (b2 : Byte) : b2 &&& 0x00 = 0x00 := by revert b2; decide

/-- R83: the row of TS.TEI. -/
theorem teiRow_iff (b0 b1 b2 b3 : Byte) :
    (b0 ++ b1 ++ b2 ++ b3 : BitVec 32) &&& 0xFF800000 = 0x47800000 ↔ b0 = Config.SYNC ∧ teiOf b1 = true := by
  have htei : b1 &&& 0x80 = 0x80 ↔ teiOf b1 = true := by revert b1; decide
  refine (masked_word_iff b0 b1 b2 b3 0xFF 0x80 0x00 0x00 0x47 0x80 0x00 0x00).trans ?_
  simp only [sync_masked_iff, htei, unread_masked, and_true]

/-- R83: the match of the row with good sync, clear error bit and the two flags. -/
def goodMatch (pusi adaptation : Bool) : BitVec 32 :=
  (0x47 : Byte) ++ (if pusi then 0x40 else 0x00 : Byte) ++ (0x00 : Byte) ++ (if adaptation then 0x20 else 0x00 : Byte)

/-- R83: the rows of TS.P, TS.AP, TS.SP and TS.ASP. -/
theorem goodRow_iff (u a : Bool) (b0 b1 b2 b3 : Byte) :
    (b0 ++ b1 ++ b2 ++ b3 : BitVec 32) &&& 0xFFC00020 = goodMatch u a ↔
      b0 = Config.SYNC ∧ (teiOf b1 = false ∧ pusiOf b1 = u) ∧ adaptationOf b3 = a := by
  have hflags : b1 &&& 0xC0 = (if u then 0x40 else 0x00) ↔ teiOf b1 = false ∧ pusiOf b1 = u := by
    revert b1 u; decide
  have hada : b3 &&& 0x20 = (if a then 0x20 else 0x00) ↔ adaptationOf b3 = a := by revert b3 a; decide
  refine (masked_word_iff b0 b1 b2 b3 0xFF 0xC0 0x00 0x20 0x47 _ 0x00 _).trans ?_
  simp only [sync_masked_iff, hflags, hada, unread_masked, true_and]

/-- Settles O4: the flags a row's mask and match stand for are the ones the packet's form is read from. -/
theorem packetFormIsTheMatchingRow : Obligations.PacketFormIsTheMatchingRow := by
  unfold Obligations.PacketFormIsTheMatchingRow
  intro b0 b1 b2 b3 body p hp
  have h0 : p.get 0 (by decide) = b0 := Bytes.get_of_data_eq hp 0 _ (by simp)
  have h1 : p.get 1 (by decide) = b1 := Bytes.get_of_data_eq hp 1 _ (by simp)
  have h3 : p.get 3 (by decide) = b3 := Bytes.get_of_data_eq hp 3 _ (by simp)
  have hbody : p.tail 4 = body := Bytes.ext_data (by rw [Bytes.tail_data, hp]; rfl)
  have hgood (u a : Bool) (hrow : (b0 ++ b1 ++ b2 ++ b3 : BitVec 32) &&& 0xFFC00020 = goodMatch u a) :
      ∃ h, packetForm p = goodForm u a h body := by
    obtain ⟨hsync, ⟨htei, hpusi⟩, hada⟩ := (goodRow_iff ..).1 hrow
    have hform := packetForm_of_good (h0.trans hsync) ((congrArg teiOf h1).trans htei)
    rw [h1, h3, hpusi, hada, hbody] at hform
    exact ⟨_, hform⟩
  refine ⟨fun hrow => ?_, hgood false false, hgood false true, hgood true false, hgood true true,
    fun htei hp hap hsp hasp => packetForm_of_badSync fun hsync => ?_⟩
  · obtain ⟨hsync, htei⟩ := (teiRow_iff ..).1 hrow
    exact ⟨_, _, packetForm_of_tei (h0.trans hsync) ((congrArg teiOf h1).trans htei)⟩
  · have hno : teiOf b1 = false := by
      simpa using fun h => htei ((teiRow_iff ..).2 ⟨h0.symm.trans hsync, h⟩)
    have hrow := (goodRow_iff (pusiOf b1) (adaptationOf b3) b0 b1 b2 b3).2 ⟨h0.symm.trans hsync, ⟨hno, rfl⟩, rfl⟩
    cases hu : pusiOf b1 <;> cases ha : adaptationOf b3 <;> rw [hu, ha] at hrow
    · exact hp hrow
    · exact hap hrow
    · exact hsp hrow
    · exact hasp hrow

end Sys2Proof
end

section
/-!
PROOFS. 40_packet_framer.md R100 to R115: what the framer gives past the sync byte and the error bit, as one equation, and
from it when it succeeds and what the record holds.
-/

namespace Sys2Proof.Machine

open Sys2Proof.Config

/-! ### The packet's slices -/

theorem slice_to_end {n : Nat} (p : Bytes n) (k : Nat) : p.slice k n = p.data.drop k := by
  rw [Bytes.slice, List.take_of_length_le p.size.le]

theorem slice_add {n : Nat} (p : Bytes n) (i k : Nat) : p.slice i (i + k) = (p.data.drop i).take k :=
  List.take_drop.symm

theorem getElem?_eq_get {n : Nat} (p : Bytes n) {k : Nat} (hk : k < n) : p.data[k]? = some (p.get k hk) :=
  List.getElem?_eq_getElem _

/-- R106: the payload offset of a packet. -/
def offsetOf (p : Bytes 188) : Nat := payloadOffset (adaptationOf (p.get 3 (by decide))) (p.get 4 (by decide))

/-- R107: no offset is below the least one. -/
theorem OFF_MIN_le_payloadOffset (a : Bool) (b4 : Byte) : OFF_MIN ≤ payloadOffset a b4 := by
  unfold payloadOffset OFF_MIN
  split <;> omega

/-- R111: the record of a packet with the two slices given. -/
def recordOf (p : Bytes 188) (slices : List Byte × Option (List Byte)) : Framed :=
  { pid := pidOf (p.get 1 (by decide)) (p.get 2 (by decide)), pusi := pusiOf (p.get 1 (by decide)),
    cc := ccOf (p.get 3 (by decide)), afc := afcOf (p.get 3 (by decide)), tsc := tscOf (p.get 3 (by decide)),
    main := slices.1, trailing := slices.2 }

/-- R107 to R111: framing past the sync byte and the error bit. -/
theorem frame_of_good {p : Bytes 188} (hsync : p.get 0 (by decide) = SYNC)
    (htei : teiOf (p.get 1 (by decide)) = false) :
    frame p =
      if offsetOf p > OFF_MAX then .error .offsetOutOfRange
      else if pusiOf (p.get 1 (by decide)) then (frameUnitStart p (offsetOf p)).map (recordOf p)
      else .ok (recordOf p (p.data.drop (offsetOf p), none)) := by
  have hmin : ¬ offsetOf p < OFF_MIN := Nat.not_lt.2 (OFF_MIN_le_payloadOffset ..)
  rw [← slice_to_end]
  unfold frame offsetOf at *
  simp only [hsync, htei, ne_eq, not_true_eq_false, Bool.false_eq_true, ↓reduceIte, hmin, false_or]
  split
  · rfl
  · by_cases hpusi : pusiOf (p.get 1 (by decide)) = true
    · simp only [if_pos hpusi]
      cases frameUnitStart p _ <;> rfl
    · simp only [if_neg hpusi]
      rfl

/-- R108 to R110: when the pointer and the tail fit, and the slices they give. -/
theorem frameUnitStart_eq_ok_iff {p : Bytes 188} {off : Nat} {slices : List Byte × Option (List Byte)} :
    frameUnitStart p off = .ok slices ↔
      ∃ ptr, p.data[off]? = some ptr ∧ off + 1 + ptr.toNat ≤ 188 ∧
        slices = (p.data.drop (off + 1 + ptr.toNat),
          tailOf ptr.toNat ((p.data.drop (off + 1)).take ptr.toNat)) := by
  unfold frameUnitStart
  by_cases hoff : off < 188
  · simp only [show ¬ off > 187 by omega, ↓reduceDIte, getElem?_eq_get p hoff, Option.some.injEq, slice_to_end, slice_add,
      exists_eq_left']
    split
    · next hlong =>
      have : ¬ off + 1 + (p.get off hoff).toNat ≤ 188 := Nat.not_le.2 hlong
      simp only [this, false_and, iff_false]
      exact nofun
    · next hfits =>
      have : off + 1 + (p.get off hoff).toNat ≤ 188 := Nat.not_lt.1 hfits
      simp only [this, true_and, Except.ok.injEq]
      exact eq_comm
  · have hnone : p.data[off]? = none := List.getElem?_eq_none (by rw [p.size]; omega)
    simp only [show off > 187 by omega, ↓reduceDIte, hnone]
    exact ⟨nofun, nofun⟩

/-- R113: when framing succeeds, and with what record. -/
theorem frame_eq_ok_iff {p : Bytes 188} {f : Framed} :
    frame p = .ok f ↔
      p.get 0 (by decide) = SYNC ∧ teiOf (p.get 1 (by decide)) = false ∧ offsetOf p ≤ 188 ∧
        ((pusiOf (p.get 1 (by decide)) = false ∧ f = recordOf p (p.data.drop (offsetOf p), none)) ∨
          (pusiOf (p.get 1 (by decide)) = true ∧ ∃ ptr, p.data[offsetOf p]? = some ptr ∧
            offsetOf p + 1 + ptr.toNat ≤ 188 ∧
            f = recordOf p (p.data.drop (offsetOf p + 1 + ptr.toNat),
              tailOf ptr.toNat ((p.data.drop (offsetOf p + 1)).take ptr.toNat)))) := by
  by_cases hsync : p.get 0 (by decide) = SYNC
  · cases htei : teiOf (p.get 1 (by decide)) with
    | true => simp [frame_of_transportError hsync htei]
    | false =>
      rw [frame_of_good hsync htei]
      simp only [hsync, true_and]
      by_cases hoff : offsetOf p > OFF_MAX
      · have hnot : ¬ offsetOf p ≤ 188 := Nat.not_le.2 hoff
        simp [hoff, hnot]
      · have hle : offsetOf p ≤ 188 := Nat.not_lt.1 hoff
        simp only [hoff, ↓reduceIte, hle, true_and]
        cases pusiOf (p.get 1 (by decide)) with
        | false => simp [eq_comm]
        | true =>
          simp only [↓reduceIte, Bool.true_eq_false, false_and, false_or, true_and]
          constructor
          · intro h
            cases hslices : frameUnitStart p (offsetOf p) with
            | error e => rw [hslices] at h; cases h
            | ok slices =>
              rw [hslices] at h
              obtain ⟨ptr, hptr, hfits, rfl⟩ := frameUnitStart_eq_ok_iff.1 hslices
              exact ⟨ptr, hptr, hfits, (Except.ok.inj h).symm⟩
          · rintro ⟨ptr, hptr, hfits, rfl⟩
            rw [frameUnitStart_eq_ok_iff.2 ⟨ptr, hptr, hfits, rfl⟩]
            rfl
  · simp [frame_of_badSync hsync, hsync]

/-- R111: every framed packet's record is that of the packet with some slices. -/
theorem frame_ok_record {p : Bytes 188} {f : Framed} (h : frame p = .ok f) : ∃ slices, f = recordOf p slices := by
  obtain ⟨_, _, _, ⟨_, rfl⟩ | ⟨_, _, _, _, rfl⟩⟩ := frame_eq_ok_iff.1 h <;> exact ⟨_, rfl⟩

/-- R106: the offset, as the statements about the framer write it. -/
theorem offsetOf_of_data {b0 b1 b2 b3 b4 : Byte} {more : Bytes 183} {p : Bytes 188}
    (hp : p.data = b0 :: b1 :: b2 :: b3 :: b4 :: more.data) :
    offsetOf p = if b3.getLsbD 5 then 5 + b4.toNat else 4 := by
  have h3 : p.get 3 (by decide) = b3 := Bytes.get_of_data_eq hp 3 _ (by simp)
  have h4 : p.get 4 (by decide) = b4 := Bytes.get_of_data_eq hp 4 _ (by simp)
  rw [offsetOf, h3, h4]
  rfl

/-- Settles O24: the offset passes 188 exactly when the adaptation field passes 183, and a pointer that is there is at most
187 less the offset exactly when the tail ends within the packet. -/
theorem frameSucceedsExactlyWhen : Obligations.FrameSucceedsExactlyWhen := by
  unfold Obligations.FrameSucceedsExactlyWhen
  intro b0 b1 b2 b3 b4 more p hp off
  have hoff : offsetOf p = off := offsetOf_of_data hp
  have h0 : p.get 0 (by decide) = b0 := Bytes.get_of_data_eq hp 0 _ (by simp)
  have h1 : p.get 1 (by decide) = b1 := Bytes.get_of_data_eq hp 1 _ (by simp)
  have hfield : off ≤ 188 ↔ (b3.getLsbD 5 = true → b4.toNat ≤ 183) := by
    simp only [off]
    cases b3.getLsbD 5
    · simp
    · simp only [↓reduceIte, forall_const]
      omega
  simp only [frame_eq_ok_iff, hoff, h0, h1, ← hfield]
  change (∃ f, _ ∧ b1.getLsbD 7 = false ∧ _ ∧ (b1.getLsbD 6 = false ∧ _ ∨ b1.getLsbD 6 = true ∧ _)) ↔ _
  cases b1.getLsbD 6 with
  | false => simp [SYNC]
  | true =>
    simp only [Bool.true_eq_false, false_and, false_or, true_and, forall_const]
    constructor
    · rintro ⟨f, hsync, htei, hle, ptr, hptr, hfits, _⟩
      refine ⟨hsync, htei, hle, by omega, fun ptr' hptr' => ?_⟩
      rw [hptr] at hptr'
      cases hptr'
      omega
    · rintro ⟨hsync, htei, hle, hlt, hptr⟩
      have hget := getElem?_eq_get p (show off < 188 by omega)
      exact ⟨_, hsync, htei, hle, _, hget, by have := hptr _ hget; omega, rfl⟩

theorem pusiOf_iff (b1 : Byte) : pusiOf b1 = true ↔ b1.toNat / 64 % 2 = 1 := by revert b1; decide

theorem byte3_fields (b3 : Byte) :
    (tscOf b3).toNat = b3.toNat / 64 ∧ (afcOf b3).toNat = b3.toNat / 16 % 4 ∧ (ccOf b3).toNat = b3.toNat % 16 := by
  revert b3; decide

/-- Settles O25: the fields of the record are bit fields of bytes 1 to 3, whose values are the quotients and remainders. -/
theorem frameReadsTheHeaderFields : Obligations.FrameReadsTheHeaderFields := by
  unfold Obligations.FrameReadsTheHeaderFields
  intro b0 b1 b2 b3 more p f hp hframe
  have h1 : p.get 1 (by decide) = b1 := Bytes.get_of_data_eq hp 1 _ (by simp)
  have h2 : p.get 2 (by decide) = b2 := Bytes.get_of_data_eq hp 2 _ (by simp)
  have h3 : p.get 3 (by decide) = b3 := Bytes.get_of_data_eq hp 3 _ (by simp)
  obtain ⟨slices, rfl⟩ := frame_ok_record hframe
  simp only [recordOf, h1, h2, h3]
  have hpid : (pidOf b1 b2).toNat = (b1.toNat % 32) * 256 + b2.toNat := by
    rw [pidOf, toNat_append_byte, BitVec.extractLsb'_toNat, Nat.shiftRight_zero, Nat.mul_comm]
  exact ⟨hpid, pusiOf_iff b1, byte3_fields b3⟩

/-- Settles O26: the two cases of a framed packet's record, and the length of what is left of 188 bytes. -/
theorem frameSlicesThePayload : Obligations.FrameSlicesThePayload := by
  unfold Obligations.FrameSlicesThePayload
  intro b0 b1 b2 b3 b4 more p f hp hframe off
  have hoff : offsetOf p = off := offsetOf_of_data hp
  obtain ⟨_, _, hle, hcases⟩ := frame_eq_ok_iff.1 hframe
  rw [hoff] at hle hcases
  obtain ⟨hpusi, rfl⟩ | ⟨hpusi, ptr, hptr, hfits, rfl⟩ := hcases
  · refine ⟨fun _ => ⟨rfl, rfl, ?_⟩, fun h => absurd (hpusi.symm.trans h) (by decide)⟩
    rw [recordOf, List.length_drop, p.size]
    omega
  · refine ⟨fun h => absurd (hpusi.symm.trans h) (by decide), fun _ => ⟨ptr, hptr, rfl, ?_, ?_, ?_⟩⟩
    · rintro rfl
      rfl
    · intro hne
      have hpos : ptr.toNat ≠ 0 := fun h => hne (BitVec.eq_of_toNat_eq h)
      refine ⟨_, if_pos (bne_iff_ne.2 hpos), rfl, ?_⟩
      rw [List.length_take, List.length_drop, p.size]
      omega
    · rw [recordOf, List.length_drop, p.size]
      omega

end Sys2Proof.Machine
end

section
/-!
PROOFS. 30_encoding.md R83, R91 against 40_packet_framer.md R100 and 43_section_header.md R160: what the framer gives of the
packet of a form, and the header decode of the section of a form, is what the form's own layout says.
-/

namespace Sys2Proof.Machine

open Sys2Proof.Config

theorem payloadOffset_false (b4 : Byte) : payloadOffset false b4 = 4 := rfl

theorem payloadOffset_true (b4 : Byte) : payloadOffset true b4 = 4 + (1 + b4.toNat) := by
  rw [payloadOffset, if_pos rfl]
  omega

/-! ### The packet of a form -/

section PacketOf

variable (u a : Bool) (h : TsHeader) (body : Bytes 184)

theorem packetOf_get_one : (packetOf u a h body).get 1 (by decide) = tsByte1 false u h.prio h.pid := rfl

theorem packetOf_get_two : (packetOf u a h body).get 2 (by decide) = h.pid.extractLsb' 0 8 := rfl

theorem packetOf_get_three : (packetOf u a h body).get 3 (by decide) = tsByte3 h.tsc a h.payloadPresent h.cc := rfl

theorem packetOf_get_body {k : Nat} (hk : k < 184) :
    (packetOf u a h body).get (4 + k) (by omega) = body.get k hk := by
  unfold Bytes.get
  simp only [packetOf_data, Nat.add_comm 4 k, List.getElem_cons_succ]

theorem packetOf_drop (k : Nat) : (packetOf u a h body).data.drop (4 + k) = body.data.drop k := by
  simp only [packetOf_data, Nat.add_comm 4 k, List.drop_succ_cons]

/-- R106. -/
theorem offsetOf_packetOf :
    offsetOf (packetOf u a h body) = payloadOffset a (body.get 0 (by decide)) := by
  rw [offsetOf, packetOf_get_three, adaptationOf_tsByte3]
  rfl

/-- R103 to R105, R111: the record of a form's packet holds the form's header fields. -/
theorem recordOf_packetOf (slices : List Byte × Option (List Byte)) :
    recordOf (packetOf u a h body) slices = formRecord h u a slices.1 slices.2 := by
  simp only [recordOf, packetOf_get_one, packetOf_get_two, packetOf_get_three, formRecord, pidOf_tsByte1, pusiOf_tsByte1,
    ccOf_tsByte3, afcOf_tsByte3, tscOf_tsByte3]

/-- R107: the framer's equation for the packet of a form. -/
theorem frame_packetOf :
    frame (packetOf u a h body) =
      if payloadOffset a (body.get 0 (by decide)) > OFF_MAX then .error .offsetOutOfRange
      else if u then (frameUnitStart (packetOf u a h body) (payloadOffset a (body.get 0 (by decide)))).map
        (recordOf (packetOf u a h body))
      else .ok (formRecord h u a ((packetOf u a h body).data.drop (payloadOffset a (body.get 0 (by decide)))) none) := by
  rw [frame_of_good rfl (by rw [packetOf_get_one, teiOf_tsByte1]), offsetOf_packetOf, packetOf_get_one, pusiOf_tsByte1,
    recordOf_packetOf]

theorem frameUnitStart_of_gt {p : Bytes 188} {off : Nat} (hoff : off > 187) :
    frameUnitStart p off = .error .offsetOutOfRange := dif_pos hoff

/-- R108 to R110: a pointer byte at `body[k]` is one at offset `4 + k` of the packet. -/
theorem frameUnitStart_packetOf (k : Nat) :
    (frameUnitStart (packetOf true a h body) (4 + k)).map (recordOf (packetOf true a h body)) =
      framePointer h a body k := by
  by_cases hk : k < 184
  · have hoff : ¬ 4 + k > 187 := by omega
    have hend : 4 + k + 1 + (body.get k hk).toNat > OFF_MAX ↔ k + 1 + (body.get k hk).toNat > 184 := by
      unfold OFF_MAX
      omega
    simp only [frameUnitStart, framePointer, hk, hoff, ↓reduceDIte, packetOf_get_body true a h body hk, hend, slice_to_end,
      slice_add]
    split
    · rfl
    · change Except.ok (recordOf _ _) = _
      rw [recordOf_packetOf, show 4 + k + 1 + (body.get k hk).toNat = 4 + (k + 1 + (body.get k hk).toNat) by omega,
        Nat.add_assoc 4 k 1, packetOf_drop, packetOf_drop]
  · rw [frameUnitStart_of_gt (by omega), framePointer, dif_neg hk]
    rfl

end PacketOf

/-- R83: TS.P. -/
theorem frame_plain (h : TsHeader) (body : Bytes 184) : frame (packetOf false false h body) = framePlain h body :=
  frame_packetOf false false h body

/-- R83, R84: TS.AP. -/
theorem frame_adaptation (h : TsHeader) (body : Bytes 184) :
    frame (packetOf false true h body) = frameAdaptation h body := by
  have hlen : 4 + (1 + (body.get 0 (by decide)).toNat) > OFF_MAX ↔ (body.get 0 (by decide)).toNat > 183 := by
    unfold OFF_MAX
    omega
  rw [frame_packetOf, payloadOffset_true, packetOf_drop]
  simp only [hlen]
  rfl

/-- R83, R85: TS.SP. -/
theorem frame_pointer (h : TsHeader) (body : Bytes 184) :
    frame (packetOf true false h body) = framePointer h false body 0 := by
  rw [frame_packetOf, payloadOffset_false, if_neg (by decide), if_pos rfl, ← frameUnitStart_packetOf, Nat.add_zero]

/-- R83 to R85: TS.ASP. A field that passes the packet's end leaves no place for the pointer byte. -/
theorem frame_adaptation_pointer (h : TsHeader) (body : Bytes 184) :
    frame (packetOf true true h body) = framePointer h true body (1 + (body.get 0 (by decide)).toNat) := by
  rw [frame_packetOf, payloadOffset_true, ← frameUnitStart_packetOf]
  split
  · next hoff =>
    rw [frameUnitStart_of_gt (Nat.lt_of_succ_lt hoff)]
    rfl
  · rfl

/-- R102: TS.TEI. -/
theorem frame_packetOfTei (low7 : BitVec 7) (rest : Bytes 186) :
    frame (packetOfTei low7 rest) = .error .transportError :=
  frame_of_transportError (p := packetOfTei low7 rest) rfl (teiOf_highBit low7)

/-! ### The same function -/

/-- Of a well-formed form, the layout and the framer give the same. -/
theorem framing_command {i : Instr} (hwf : i.wellFormed = true) : framing i = framing i.command := by
  cases i with
  | tsTei low7 rest => exact congrArg some (frame_packetOfTei low7 rest).symm
  | tsP h body => exact congrArg some (frame_plain h body).symm
  | tsAp h body => exact congrArg some (frame_adaptation h body).symm
  | tsSp h body => exact congrArg some (frame_pointer h body).symm
  | tsAsp h body => exact congrArg some (frame_adaptation_pointer h body).symm
  | tsBadsync p => exact congrArg some (frame_of_badSync ((tsBadsync_wellFormed_iff p).1 hwf)).symm
  | _ => rfl

/-- R140: an ACCEPT of whatever form is decided by what framing gives. -/
theorem exec_of_framing {i : Instr} {r : Except Status Framed} (h : framing i = some r) (s : State) :
    exec i s = .next (acceptFramed s r) := by
  cases i <;> cases h <;> rfl

/-- R91: the header decode of a form's section. -/
theorem hdr_sectionOf (b : Bool) (h : SecHead) (rest : List Byte) :
    hdr (sectionOf b h rest) =
      if b then longHeader h.tableId h.sectionLength rest else .ok (shortHeader h.tableId h.sectionLength) := by
  rw [sectionOf, hdr, ssiOf_assembled, sectionLengthOf_assembled]

theorem exec_command {i : Instr} (hwf : i.wellFormed = true) (s : State) : exec i s = exec i.command s := by
  cases hf : framing i with
  | some r => rw [exec_of_framing hf, exec_of_framing (framing_command hwf ▸ hf)]
  | none =>
    cases i with
    | shLong pid16 h rest =>
      exact congrArg (fun r => Host.Outcome.next (parseAnswer s pid16 r)) (hdr_sectionOf true h rest).symm
    | shShort pid16 h rest =>
      exact congrArg (fun r => Host.Outcome.next (parseAnswer s pid16 r)) (hdr_sectionOf false h rest).symm
    | tsTei | tsP | tsAp | tsSp | tsAsp | tsBadsync => cases hf
    | _ => rfl

/-- The form of any instruction means what the instruction means: both stand for the same command. -/
theorem exec_form (i : Instr) (s : State) : exec i.form s = exec i s := by
  cases i with
  | accept p => rw [Instr.form, exec_command (packetForm_spec p).1, (packetForm_spec p).2]
  | sechdrParse pid16 sec =>
    match sec with
    | [] | [_] | [_, _] => rfl
    | s0 :: s1 :: s2 :: rest =>
      rw [Instr.form, sectionForm_cons]
      cases hssi : ssiOf s1 with
      | true => exact congrArg (fun r => Host.Outcome.next (parseAnswer s pid16 r)) (if_pos hssi).symm
      | false =>
        exact congrArg (fun r => Host.Outcome.next (parseAnswer s pid16 r)) (if_neg (Bool.eq_false_iff.1 hssi)).symm
  | _ => rfl

/-! ### One step -/

/-- 00_scope.md R7, R8. -/
theorem step_of_instr {s : State} {i : Instr} {rest : List Byte} (h : decode s.cmd = .instr i rest) :
    step s = exec i (s.logFailures.takeWord rest) := by
  simp only [step, fetch, h]

/-- Settles O5: the state fetching leaves is the one the statement writes. -/
theorem stepRunsTheDecodedCommand : Obligations.StepRunsTheDecodedCommand := by
  unfold Obligations.StepRunsTheDecodedCommand
  exact fun s i rest h => step_of_instr h

/-- Settles O6: the forms mean what their commands mean, and a step runs the form through its command. -/
theorem formsAgreeWithFrameAndHdr : Obligations.FormsAgreeWithFrameAndHdr := by
  unfold Obligations.FormsAgreeWithFrameAndHdr
  refine ⟨fun i s hwf => exec_command hwf s, exec_form, fun s i rest h => ?_⟩
  obtain ⟨j, hdecode, rfl⟩ := decodeForm_eq_instr h
  rw [step_of_instr hdecode, exec_form]
  rfl

/-- R81: the opcode map has nine entries. -/
theorem decodeWith_of_undefined {op : Byte} {bs : List Byte} (h1 : op ≠ 0x01) (h2 : op ≠ 0x02) (h3 : op ≠ 0x03)
    (h4 : op ≠ 0x04) (h5 : op ≠ 0x05) (h6 : op ≠ 0x06) (h7 : op ≠ 0x10) (h8 : op ≠ 0x11) (h9 : op ≠ 0xFF) :
    decodeWith op bs = .badCommand bs := by
  unfold decodeWith
  split
  case h_10 => rfl
  all_goals
    next hn =>
    have := byte_eq_ofNat hn
    contradiction

/-- Settles O7: an undefined opcode is a word of its own, rejected with `BadCommand`. -/
theorem undefinedOpcodeIsBadCommand : Obligations.UndefinedOpcodeIsBadCommand := by
  unfold Obligations.UndefinedOpcodeIsBadCommand
  intro s op rest hcmd h1 h2 h3 h4 h5 h6 h7 h8 h9
  have hdecode : decode s.cmd = .badCommand rest := by
    rw [hcmd]
    exact decodeWith_of_undefined h1 h2 h3 h4 h5 h6 h7 h8 h9
  simp only [step, fetch, hdecode]
  rfl

/-- R79: the rows of SECHDR_GET end at selector 8. -/
theorem getterOf_of_eight_lt {sel : Byte} (hsel : 8 < sel.toNat) (pid16 : BitVec 16) (sec : List Byte) :
    getterOf sel pid16 sec = none := by
  unfold getterOf
  split
  case h_10 => rfl
  all_goals omega

/-- Settles O8: the word ends where `len32` says, and no row has its selector. -/
theorem reservedSelectorIsBadOperand : Obligations.ReservedSelectorIsBadOperand := by
  unfold Obligations.ReservedSelectorIsBadOperand
  intro s sel p1 p0 l3 l2 l1 l0 sec rest hsel hlen hcmd
  have hdecode : decode s.cmd = .badSelector rest := by
    rw [hcmd]
    change decodeGet (sel :: p1 :: p0 :: l3 :: l2 :: l1 :: l0 :: (sec ++ rest)) = _
    simp [decodeGet, ← hlen, getterOf_of_eight_lt hsel]
  simp only [step, fetch, hdecode]
  rfl

end Sys2Proof.Machine
end

section
/-!
PROOFS. What an accepted packet, an instruction and a step leave unchanged and what they can change, field by field, read off
`Routed`, `Executed` and `Stepped` once. Proofs about every step go through these lemmas and through `Kept`.
-/

namespace Sys2Proof.Machine

open Sys2Proof.Config

theorem pid_toNat_ne_null {pid : BitVec 13} (h : pid ≠ NULL_PID) : pid.toNat ≠ 0x1FFF :=
  fun hn => h (BitVec.eq_of_toNat_eq hn)

/-! ### Setting the fatal state -/

theorem State.setFatal_frame (s : State) (c : FatalCause) : s.setFatal c = { s with status := (s.setFatal c).status } := by
  unfold State.setFatal
  split <;> rfl

theorem State.setFatal_status_congr {s v : State} (h : v.status = s.status) (c : FatalCause) :
    (v.setFatal c).status = (s.setFatal c).status := by
  have hfatal : v.fatal = s.fatal := congrArg (·.getLsbD 0) h
  unfold State.setFatal
  rw [hfatal]
  split
  · exact h
  · exact congrArg (statusWith · c) h

/-! ### A re-offered packet -/

section Reoffered

variable {v t : State} {f : Framed} {st : Status}

/-- A re-offered packet writes the accumulator file and STATUS at most. -/
theorem Reoffered.frame (h : Reoffered v f t st) : ∃ acc status, t = { v with acc := acc, status := status } := by
  cases h with
  | ignored => exact ⟨_, _, rfl⟩
  | started => exact ⟨_, _, rfl⟩
  | tooLong => exact ⟨_, _, State.setFatal_frame ..⟩

theorem Reoffered.accum_cases (h : Reoffered v f t st) (q : Nat) :
    t.accum q = v.accum q ∨
      (q = f.pid.toNat ∧ overflows v.params f.main.length = false ∧ t.accum q = startedAccum v.params f) := by
  cases h with
  | ignored => exact .inl rfl
  | started _ hfits =>
    by_cases hq : q = f.pid.toNat
    · exact .inr ⟨hq, hfits, by simp [hq]⟩
    · exact .inl (by simp [hq])
  | tooLong => exact .inl (State.setFatal_accum ..)

theorem Reoffered.status_cases (h : Reoffered v f t st) :
    (st = .ok ∧ t.status = v.status) ∨ (st = .fatal ∧ t.status = (v.setFatal .bufferOverflow).status) := by
  cases h with
  | ignored => exact .inl ⟨rfl, rfl⟩
  | started => exact .inl ⟨rfl, rfl⟩
  | tooLong => exact .inr ⟨rfl, rfl⟩

end Reoffered

/-! ### An accepted packet -/

section Routed

variable {s t : State} {f : Framed} {st : Status}

/-- R142 to R145: an accepted packet is counted; what else it can write is the second total, the accumulator file, the seen
bits, STATUS and EVT. -/
theorem Routed.frame (h : Routed s f t st) :
    ∃ errors acc seen status evt, t = { s with
      totalPackets := wrap s.params (s.totalPackets + 1), totalCcErrors := errors, acc := acc, seen := seen,
      status := status, evt := evt } := by
  cases h with
  | null => exact ⟨_, _, _, _, _, rfl⟩
  | broken => exact ⟨_, _, _, _, _, State.setFatal_frame ..⟩
  | awaiting _ _ _ _ _ hr => obtain ⟨_, _, rfl⟩ := hr.frame; exact ⟨_, _, _, _, _, rfl⟩
  | wrongCounter _ _ _ _ _ _ hr => obtain ⟨_, _, rfl⟩ := hr.frame; exact ⟨_, _, _, _, _, rfl⟩
  | completed _ _ _ _ _ _ _ hr => obtain ⟨_, _, rfl⟩ := hr.frame; exact ⟨_, _, _, _, _, rfl⟩
  | appended => exact ⟨_, _, _, _, _, rfl⟩
  | appendTooLong => exact ⟨_, _, _, _, _, State.setFatal_frame ..⟩

theorem Routed.params (h : Routed s f t st) : t.params = s.params := by
  obtain ⟨_, _, _, _, _, rfl⟩ := h.frame; rfl

theorem Routed.handlers (h : Routed s f t st) : t.handlers = s.handlers := by
  obtain ⟨_, _, _, _, _, rfl⟩ := h.frame; rfl

theorem Routed.slot (h : Routed s f t st) (q : Nat) : t.slot q = s.slot q := by
  obtain ⟨_, _, _, _, _, rfl⟩ := h.frame; rfl

theorem Routed.obs (h : Routed s f t st) : t.obs = s.obs := by
  obtain ⟨_, _, _, _, _, rfl⟩ := h.frame; rfl

theorem Routed.totalPackets (h : Routed s f t st) : t.totalPackets = wrap s.params (s.totalPackets + 1) := by
  obtain ⟨_, _, _, _, _, rfl⟩ := h.frame; rfl

theorem Routed.rsp (h : Routed s f t st) : t.rsp = s.rsp := by
  obtain ⟨_, _, _, _, _, rfl⟩ := h.frame; rfl

theorem Routed.log (h : Routed s f t st) : t.log = s.log := by
  obtain ⟨_, _, _, _, _, rfl⟩ := h.frame; rfl

theorem Routed.evtFailures (h : Routed s f t st) : t.evtFailures = s.evtFailures := by
  obtain ⟨_, _, _, _, _, rfl⟩ := h.frame; rfl

theorem Routed.totalCcErrors_cases (h : Routed s f t st) :
    t.totalCcErrors = s.totalCcErrors ∨ t.totalCcErrors = wrap s.params (s.totalCcErrors + 1) := by
  cases h with
  | null => exact .inl rfl
  | broken => exact .inl (State.setFatal_totalCcErrors ..)
  | awaiting _ _ _ _ _ hr => obtain ⟨_, _, rfl⟩ := hr.frame; exact .inl rfl
  | wrongCounter _ _ _ _ _ _ hr => obtain ⟨_, _, rfl⟩ := hr.frame; exact .inr rfl
  | completed _ _ _ _ _ _ _ hr => obtain ⟨_, _, rfl⟩ := hr.frame; exact .inl rfl
  | appended => exact .inl rfl
  | appendTooLong => exact .inl (State.setFatal_totalCcErrors ..)

/-- R228: routing answers OK and leaves STATUS, or answers `Fatal` having set it. -/
theorem Routed.status_cases (h : Routed s f t st) :
    (st = .ok ∧ t.status = s.status) ∨ (st = .fatal ∧ ∃ c, t.status = (s.setFatal c).status) := by
  have reoffered {v : State} (hv : v.status = s.status) (hr : Reoffered v f t st) :
      (st = .ok ∧ t.status = s.status) ∨ (st = .fatal ∧ ∃ c, t.status = (s.setFatal c).status) := by
    obtain ⟨hst, hstatus⟩ | ⟨hst, hstatus⟩ := hr.status_cases
    · exact .inl ⟨hst, hstatus.trans hv⟩
    · exact .inr ⟨hst, _, hstatus.trans (State.setFatal_status_congr hv _)⟩
  cases h with
  | null => exact .inl ⟨rfl, rfl⟩
  | broken => exact .inr ⟨rfl, _, State.setFatal_status_congr (s := s) (v := s.counted _) rfl _⟩
  | awaiting _ _ _ _ _ hr => exact reoffered (by rfl) hr
  | wrongCounter _ _ _ _ _ _ hr => exact reoffered (by rfl) hr
  | completed _ _ _ _ _ _ _ hr => exact reoffered (by rfl) hr
  | appended => exact .inl ⟨rfl, rfl⟩
  | appendTooLong => exact .inr ⟨rfl, _, State.setFatal_status_congr (s := s) (v := s.counted _) rfl _⟩

/-- R22, R137: a packet leaves every other PID's accumulator and seen bit alone, and a null packet all of them. -/
theorem Routed.untouched (h : Routed s f t st) {q : Nat} (hq : f.pid = NULL_PID ∨ q ≠ f.pid.toNat) :
    t.accum q = s.accum q ∧ t.seenBit q = s.seenBit q := by
  have reoffered {v : State} (hne : q ≠ f.pid.toNat) (ha : v.accum q = s.accum q) (hs : v.seenBit q = s.seenBit q)
      (hr : Reoffered v f t st) : t.accum q = s.accum q ∧ t.seenBit q = s.seenBit q := by
    refine ⟨?_, ?_⟩
    · obtain hv | ⟨hown, _⟩ := hr.accum_cases q
      · exact hv.trans ha
      · exact absurd hown hne
    · obtain ⟨_, _, rfl⟩ := hr.frame
      exact hs
  cases h with
  | null => exact ⟨rfl, rfl⟩
  | broken hn => have hne := hq.resolve_left hn; simp [hne]
  | awaiting _ _ hn _ _ hr =>
    have hne := hq.resolve_left hn
    exact reoffered (v := s.counted _) hne rfl (by simp [hne]) hr
  | wrongCounter _ _ _ hn _ _ hr =>
    have hne := hq.resolve_left hn
    exact reoffered hne (by simp [hne]) (by simp [hne]) hr
  | completed _ _ _ hn _ _ _ hr =>
    have hne := hq.resolve_left hn
    exact reoffered hne (by simp [hne]) (by simp [hne]) hr
  | appended _ hn => have hne := hq.resolve_left hn; simp [hne]
  | appendTooLong _ hn => have hne := hq.resolve_left hn; simp [hne]

/-- R144: the PID of an accepted packet other than a null packet is seen. -/
theorem Routed.seenBit_own (h : Routed s f t st) (hn : f.pid ≠ NULL_PID) : t.seenBit f.pid.toNat = true := by
  have reoffered {v : State} (hv : v.seenBit f.pid.toNat = true) (hr : Reoffered v f t st) :
      t.seenBit f.pid.toNat = true := by
    obtain ⟨_, _, rfl⟩ := hr.frame
    exact hv
  cases h with
  | null hnull => exact absurd hnull hn
  | broken => simp
  | awaiting _ _ _ _ _ hr => exact reoffered (by simp) hr
  | wrongCounter _ _ _ _ _ _ hr => exact reoffered (by simp) hr
  | completed _ _ _ _ _ _ _ hr => exact reoffered (by simp) hr
  | appended => simp
  | appendTooLong => simp

end Routed

/-- What a step can make of an accumulator (41_section_accumulator.md R120). -/
inductive AccumStep (p : Params) (a : Accum) : Accum → Prop where
  | same : AccumStep p a a
  | cleared : AccumStep p a Accum.idle
  | started (f : Framed) : overflows p f.main.length = false → AccumStep p a (startedAccum p f)
  | appended (f : Framed) (prev : BitVec 4) : a.state = .accumulating prev →
      overflows p (a.buf.length + f.main.length) = false → AccumStep p a (appendedAccum p a f)

theorem AccumStep.of_eq {p : Params} {a b : Accum} (h : b = a) : AccumStep p a b := h ▸ .same

theorem Reoffered.accumStep {v t : State} {f : Framed} {st : Status} {a : Accum} (h : Reoffered v f t st) (q : Nat)
    (hv : AccumStep v.params a (v.accum q)) : AccumStep v.params a (t.accum q) := by
  obtain hq | ⟨_, hfits, hq⟩ := h.accum_cases q <;> rw [hq]
  · exact hv
  · exact .started f hfits

theorem Routed.accumStep {s t : State} {f : Framed} {st : Status} (h : Routed s f t st) (q : Nat) :
    AccumStep s.params (s.accum q) (t.accum q) := by
  have cleared (v : State) (hv : v.accum q = s.accum q) :
      AccumStep s.params (s.accum q) ((v.clearAccum f.pid.toNat).accum q) := by
    rw [State.clearAccum_accum, hv]
    split
    · exact .cleared
    · exact .same
  cases h with
  | null => exact .same
  | broken => exact .of_eq (by simp)
  | awaiting _ _ _ _ _ hr => exact hr.accumStep q .same
  | wrongCounter _ _ _ _ _ _ hr => exact hr.accumStep q (cleared _ rfl)
  | completed _ _ _ _ _ _ _ hr => exact hr.accumStep q (cleared _ rfl)
  | appended prev _ hstate _ _ hfits =>
    rw [State.setAccum_accum]
    split
    · next hq => rw [hq]; exact .appended f prev hstate hfits
    · exact .same
  | appendTooLong => exact .of_eq (by simp)

/-! ### The records of an accepted packet -/

/-- R148: what a step can put on EVT. -/
inductive Emitted (s : State) : List EvtRecord → Prop where
  | nothing : Emitted s []
  | sectionRecords (p : BitVec 13) (bytes : List Byte) : Emitted s (dispatchRecords s p (.sectionComplete bytes))
  | errorRecords (p : BitVec 13) (prev actual : BitVec 4) : actual ≠ prev + 1 →
      Emitted s (dispatchRecords s p (.continuityError prev (prev + 1) actual))

theorem Routed.emitted {s t : State} {f : Framed} {st : Status} (h : Routed s f t st) :
    ∃ records, t.evt = s.evt ++ records ∧ Emitted s records := by
  have hcounted (e : Event) : dispatchRecords (s.counted f.pid.toNat) f.pid e = dispatchRecords s f.pid e :=
    dispatchRecords_congr rfl rfl rfl _ _
  cases h with
  | null => exact ⟨[], (List.append_nil _).symm, .nothing⟩
  | broken => exact ⟨[], by simp [State.counted], .nothing⟩
  | awaiting _ _ _ _ _ hr => obtain ⟨_, _, rfl⟩ := hr.frame; exact ⟨[], (List.append_nil _).symm, .nothing⟩
  | wrongCounter prev _ _ _ _ hcc hr =>
    obtain ⟨_, _, rfl⟩ := hr.frame
    exact ⟨_, congrArg (s.evt ++ ·) (hcounted _), .errorRecords f.pid prev f.cc hcc⟩
  | completed _ _ _ _ _ _ _ hr =>
    obtain ⟨_, _, rfl⟩ := hr.frame
    exact ⟨_, congrArg (s.evt ++ ·) (hcounted _), .sectionRecords f.pid _⟩
  | appended => exact ⟨[], (List.append_nil _).symm, .nothing⟩
  | appendTooLong => exact ⟨[], by simp [State.counted], .nothing⟩

/-! ### An instruction and a step -/

/-- Every instruction gives one response, adds to EVT at most, and leaves LOG and the failure reports. -/
theorem Executed.channels {i : Instr} {s t : State} (h : Executed i s t) :
    (∃ r, t.rsp = s.rsp ++ [r]) ∧ (∃ records, t.evt = s.evt ++ records ∧ Emitted s records) ∧ t.log = s.log ∧
      t.evtFailures = s.evtFailures := by
  have nothing : ∃ records, s.evt = s.evt ++ records ∧ Emitted s records := ⟨[], (List.append_nil _).symm, .nothing⟩
  cases h with
  | routed f u st _ _ hr =>
    exact ⟨⟨_, congrArg (· ++ _) hr.rsp⟩, hr.emitted, hr.log, hr.evtFailures⟩
  | _ => exact ⟨⟨_, rfl⟩, nothing, rfl, rfl⟩

theorem Executed.accumStep {i : Instr} {s t : State} (h : Executed i s t) (q : Nat) :
    AccumStep s.params (s.accum q) (t.accum q) := by
  cases h with
  | routed f u st _ _ hr => exact hr.accumStep q
  | reset => exact .cleared
  | _ => exact .same

theorem Emitted.of_taken {s : State} {rest : List Byte} {records : List EvtRecord}
    (h : Emitted (s.logFailures.takeWord rest) records) : Emitted s records := by
  have htaken (p : BitVec 13) (e : Event) :
      dispatchRecords (s.logFailures.takeWord rest) p e = dispatchRecords s p e := dispatchRecords_congr rfl rfl rfl p e
  cases h with
  | nothing => exact .nothing
  | sectionRecords p bytes => rw [htaken]; exact .sectionRecords p bytes
  | errorRecords p prev actual hne => rw [htaken]; exact .errorRecords p prev actual hne

theorem Stepped.emitted {s t : State} (h : Stepped s t) :
    ∃ records, t.evt = s.evt ++ records ∧ Emitted s records := by
  cases h with
  | waited => exact ⟨[], (List.append_nil _).symm, .nothing⟩
  | rejected => exact ⟨[], (List.append_nil _).symm, .nothing⟩
  | ran i rest _ _ _ hx =>
    obtain ⟨_, ⟨records, hevt, hrecords⟩, _⟩ := hx.channels
    exact ⟨records, hevt, hrecords.of_taken⟩

theorem Stepped.accumStep {s t : State} (h : Stepped s t) (q : Nat) :
    AccumStep s.params (s.accum q) (t.accum q) := by
  cases h with
  | waited => exact .same
  | rejected => exact .same
  | ran i rest _ _ _ hx => exact hx.accumStep q

/-! ### What every instruction keeps -/

/-- `P` is about registers and parameters, and every write of an instruction keeps it. -/
structure Kept (P : State → Prop) : Prop where
  congr : ∀ {s t : State}, s.sameRegisters t → t.params = s.params → P s → P t
  slot : ∀ {s : State} (p : Nat) (h : HandlerSlot), p ≤ 0x1FFF →
    (h.hid.toNat < 2 ^ s.params.idW ∨ h.hid = (s.slot p).hid) → P s → P (s.setSlot p h)
  observer : ∀ {s : State} (o : BitVec 16), s.obs.length ≠ s.params.nObsMax → o.toNat < 2 ^ s.params.idW → P s →
    P { s with obs := s.obs ++ [o] }
  reset : ∀ {s : State}, P s → P s.resetRegisters
  routed : ∀ {s t : State} {f : Framed} {st : Status}, s.fatal = false → Routed s f t st → P s → P t

section Kept

variable {P : State → Prop}

theorem Kept.respond (hP : Kept P) {s : State} (st : Status) (data : List Byte) (h : P s) : P (s.respond st data) :=
  hP.congr (s := s) ⟨rfl, rfl, rfl, rfl, rfl, rfl, rfl⟩ rfl h

theorem Kept.take (hP : Kept P) {s : State} (rest : List Byte) (h : P s) : P (s.logFailures.takeWord rest) :=
  hP.congr (s := s) ⟨rfl, rfl, rfl, rfl, rfl, rfl, rfl⟩ rfl h

theorem Kept.executed (hP : Kept P) {i : Instr} {s t : State} (hx : Executed i s t) (h : P s) : P t := by
  cases hx with
  | answered => exact hP.respond _ _ h
  | refused => exact hP.respond _ _ h
  | registered p slot _ hp hid => exact hP.respond _ _ (hP.slot p slot hp hid h)
  | observed o _ hlen ho => exact hP.respond _ _ (hP.observer o hlen ho h)
  | routed f u st hf _ hr => exact hP.respond _ _ (hP.routed hf hr h)
  | reset => exact hP.respond _ _ (hP.reset h)

theorem Kept.exec (hP : Kept P) {i : Instr} {s t : State} (ht : exec i s = .next t) (h : P s) : P t :=
  hP.executed (.of_exec ht) h

theorem Kept.step (hP : Kept P) {s t : State} (ht : step s = .next t) (h : P s) : P t := by
  cases Stepped.of_step ht with
  | waited => exact hP.congr (s := s) ⟨rfl, rfl, rfl, rfl, rfl, rfl, rfl⟩ rfl h
  | rejected => exact hP.respond _ _ (hP.take _ h)
  | ran i rest _ _ _ hx => exact hP.executed hx (hP.take rest h)

end Kept

end Sys2Proof.Machine
end

section
/-!
PROOFS. The invariants of 10_state.md: every step keeps them, and the reset state meets them. Each is shown of the writes an
instruction can make (`Kept`), or of what a step can make of an accumulator (`AccumStep`).
-/

namespace Sys2Proof.Machine

open Sys2Proof.Config

theorem State.accum_congr {s t : State} (h : t.acc = s.acc) (q : Nat) : t.accum q = s.accum q :=
  congrArg (Memory.read Accum.idle · q) h

theorem State.seenBit_congr {s t : State} (h : t.seen = s.seen) (q : Nat) : t.seenBit q = s.seenBit q :=
  congrArg (Memory.read false · q) h

theorem State.slot_congr {s t : State} (h : t.handlers = s.handlers) (q : Nat) : t.slot q = s.slot q :=
  congrArg (Memory.read HandlerSlot.empty · q) h

/-! ### The canonical form of the PID-indexed files -/

section FilesCanonical

variable {s : State} (h : s.filesCanonical)
include h

theorem filesCanonical_setAccum (p : Nat) (a : Accum) : (s.setAccum p a).filesCanonical := by
  obtain ⟨hacc, hseen, hhandlers⟩ := h
  exact ⟨Memory.wf_write hacc p a, hseen, hhandlers⟩

theorem filesCanonical_counted (p : Nat) : (s.counted p).filesCanonical := by
  obtain ⟨hacc, hseen, hhandlers⟩ := h
  exact ⟨hacc, Memory.wf_write hseen p true, hhandlers⟩

theorem filesCanonical_setSlot (p : Nat) (slot : HandlerSlot) : (s.setSlot p slot).filesCanonical := by
  obtain ⟨hacc, hseen, hhandlers⟩ := h
  exact ⟨hacc, hseen, Memory.wf_write hhandlers p slot⟩

theorem filesCanonical_setFatal (c : FatalCause) : (s.setFatal c).filesCanonical := by
  rw [State.setFatal_frame]
  exact h

theorem filesCanonical_reoffered {t : State} {f : Framed} {st : Status} (hr : Reoffered s f t st) :
    t.filesCanonical := by
  cases hr with
  | ignored => exact h
  | started => exact filesCanonical_setAccum h _ _
  | tooLong => exact filesCanonical_setFatal h _

theorem filesCanonical_routed {t : State} {f : Framed} {st : Status} (hr : Routed s f t st) : t.filesCanonical := by
  have hcounted := filesCanonical_counted h f.pid.toNat
  cases hr with
  | null => exact h
  | broken => exact filesCanonical_setFatal hcounted _
  | awaiting _ _ _ _ _ hr => exact filesCanonical_reoffered hcounted hr
  | wrongCounter _ _ _ _ _ _ hr =>
    exact filesCanonical_reoffered (filesCanonical_setAccum (s := (s.counted _).countCcError.dispatch _ _) hcounted _ _) hr
  | completed _ _ _ _ _ _ _ hr =>
    exact filesCanonical_reoffered (filesCanonical_setAccum (s := (s.counted _).dispatch _ _) hcounted _ _) hr
  | appended => exact filesCanonical_setAccum hcounted _ _
  | appendTooLong => exact filesCanonical_setFatal hcounted _

end FilesCanonical

theorem filesCanonical_kept : Kept State.filesCanonical where
  congr := by
    rintro s t ⟨hacc, hseen, hhandlers, _⟩ _ h
    rw [State.filesCanonical, hacc, hseen, hhandlers]
    exact h
  slot p slot _ _ h := filesCanonical_setSlot h p slot
  observer _ _ _ h := h
  reset _ := ⟨Memory.wf_nil _, Memory.wf_nil _, Memory.wf_nil _⟩
  routed _ hr h := filesCanonical_routed h hr

/-- Settles O42: a file is changed by `Memory.write` and reset alone, and both leave the canonical form. -/
theorem stepKeepsFilesCanonical : Obligations.StepKeepsFilesCanonical := by
  unfold Obligations.StepKeepsFilesCanonical
  exact fun s t h ht => filesCanonical_kept.step ht h

/-! ### The accumulators -/

theorem wrap_lt (p : Params) (n : Nat) : wrap p n < 2 ^ p.cntW.val := Nat.mod_lt _ (Nat.two_pow_pos _)

theorem wrap_of_lt {p : Params} {n : Nat} (h : n < 2 ^ p.cntW.val) : wrap p n = n := Nat.mod_eq_of_lt h

theorem wrap_add (p : Params) (m n : Nat) : wrap p (wrap p m + n) = wrap p (m + n) := Nat.mod_add_mod ..

/-- R29: a step's effect on an accumulator keeps the invariant. The byte count of an append is that of the longer buffer,
counts being taken modulo 2^CNT_W (R125). -/
theorem AccumStep.ok {p : Params} {a b : Accum} (h : AccumStep p a b) (hok : a.ok p) : b.ok p := by
  cases h with
  | same => exact hok
  | cleared => exact ⟨rfl, rfl, rfl⟩
  | started f hfits => exact ⟨rfl, wrap_lt .., hfits⟩
  | appended f prev hstate hfits =>
    simp only [Accum.ok, hstate] at hok
    obtain ⟨hbytes, _⟩ := hok
    refine ⟨?_, wrap_lt .., by rwa [← List.length_append] at hfits⟩
    change wrap p (a.bytes + f.main.length) = wrap p (a.buf ++ f.main).length
    rw [hbytes, wrap_add, List.length_append]

/-- R29: a count that does not wrap stays at least 1 while the accumulator accumulates. -/
theorem AccumStep.pkts_pos {p : Params} {a b : Accum} (h : AccumStep p a b) (hw : 1 ≤ p.cntW.val)
    (hpkts : a.pkts + 1 < 2 ^ p.cntW.val) (hpos : ∀ prev, a.state = .accumulating prev → 1 ≤ a.pkts)
    {prev : BitVec 4} (hb : b.state = .accumulating prev) : 1 ≤ b.pkts := by
  cases h with
  | same => exact hpos prev hb
  | cleared => cases hb
  | started f =>
    have hone : 1 < 2 ^ p.cntW.val := Nat.one_lt_two_pow (by omega)
    exact (wrap_of_lt hone).ge
  | appended f =>
    change 1 ≤ wrap p (a.pkts + 1)
    rw [wrap_of_lt hpkts]
    exact Nat.le_add_left ..

theorem accumsOk_kept : Kept State.accumsOk where
  congr := by
    rintro s t ⟨hacc, _⟩ hparams h p
    rw [State.accum_congr hacc, hparams]
    exact h p
  slot _ _ _ _ h := h
  observer _ _ _ h := h
  reset _ _ := ⟨rfl, rfl, rfl⟩
  routed _ hr h p := by
    rw [hr.params]
    exact (hr.accumStep p).ok (h p)

/-- Settles O43: both clauses are of one accumulator, and hold of everything a step can make of it. -/
theorem stepKeepsTheAccumulatorInvariant : Obligations.StepKeepsTheAccumulatorInvariant := by
  unfold Obligations.StepKeepsTheAccumulatorInvariant
  refine ⟨fun s t h ht => accumsOk_kept.step ht h, fun s t hw hpkts hpos ht p prev hstate => ?_⟩
  exact ((Stepped.of_step ht).accumStep p).pkts_pos hw (hpkts p) (hpos p) hstate

/-! ### The null PID and the PID space -/

/-- The three properties the statement about the null PID is about. -/
def pidSpace (s : State) : Prop := s.nullPidUntouched ∧ s.pidsInRange ∧ s.seenCovers

/-- R143: a packet of the null PID changes no accumulator; any other packet leaves its own PID, which is below 0x1FFF,
seen. -/
theorem pidSpace_routed {s t : State} {f : Framed} {st : Status} (hr : Routed s f t st) (h : pidSpace s) :
    pidSpace t := by
  obtain ⟨⟨hnull, hnullSeen⟩, hrange, hcovers⟩ := h
  refine ⟨?_, fun q hq => ?_, fun q hne => ?_⟩
  · have hq : f.pid = NULL_PID ∨ 0x1FFF ≠ f.pid.toNat := by
      by_cases hn : f.pid = NULL_PID
      · exact .inl hn
      · exact .inr (pid_toNat_ne_null hn).symm
    obtain ⟨haccum, hseen⟩ := hr.untouched hq
    exact ⟨haccum.trans hnull, hseen.trans hnullSeen⟩
  · have hown : q ≠ f.pid.toNat := fun h => absurd f.pid.isLt (by omega)
    obtain ⟨haccum, hseen⟩ := hr.untouched (.inr hown)
    obtain ⟨hidle, hunseen, hslot⟩ := hrange q hq
    exact ⟨haccum.trans hidle, hseen.trans hunseen, (hr.slot q).trans hslot⟩
  · by_cases hown : f.pid ≠ NULL_PID ∧ q = f.pid.toNat
    · obtain ⟨hn, rfl⟩ := hown
      exact hr.seenBit_own hn
    · have hq : f.pid = NULL_PID ∨ q ≠ f.pid.toNat := by tauto
      obtain ⟨haccum, hseen⟩ := hr.untouched hq
      rw [hseen]
      exact hcovers q (haccum ▸ hne)

theorem pidSpace_kept : Kept pidSpace where
  congr := by
    rintro s t ⟨hacc, hseen, hhandlers, _⟩ _ h
    simp only [pidSpace, State.nullPidUntouched, State.pidsInRange, State.seenCovers, State.accum_congr hacc,
      State.seenBit_congr hseen, State.slot_congr hhandlers]
    exact h
  slot p slot hp _ := by
    rintro ⟨hnull, hrange, hcovers⟩
    refine ⟨hnull, fun q hq => ?_, hcovers⟩
    have hne : q ≠ p := by omega
    rw [State.setSlot_slot, if_neg hne]
    exact hrange q hq
  observer _ _ _ h := h
  reset _ := ⟨⟨rfl, rfl⟩, fun _ _ => ⟨rfl, rfl, rfl⟩, fun _ h => absurd rfl h⟩
  routed _ hr h := pidSpace_routed hr h

/-- Settles O44: the three properties together are kept. -/
theorem stepKeepsTheNullPidUntouched : Obligations.StepKeepsTheNullPidUntouched := by
  unfold Obligations.StepKeepsTheNullPidUntouched
  exact fun s t hnull hrange hcovers ht => pidSpace_kept.step ht ⟨hnull, hrange, hcovers⟩

/-! ### STATUS -/

/-- R35: with FATAL clear a legal STATUS is 0. -/
theorem status_eq_zero {s : State} (h : s.statusLegal) (hf : s.fatal = false) : s.status = 0x00 := by
  unfold State.fatal at hf
  obtain h | h | h := h
  · exact h
  · rw [h] at hf; exact absurd hf (by decide)
  · rw [h] at hf; exact absurd hf (by decide)

theorem statusLegal_setFatal {s : State} (h : s.statusLegal) (hf : s.fatal = false) (c : FatalCause) :
    (s.setFatal c).statusLegal := by
  rw [State.statusLegal, State.setFatal_status, hf, status_eq_zero h hf]
  cases c
  · exact .inr (.inl (by decide))
  · exact .inr (.inr (by decide))

theorem statusLegal_kept : Kept State.statusLegal where
  congr := by
    rintro s t ⟨_, _, _, _, _, _, hstatus⟩ _ h
    rw [State.statusLegal, hstatus]
    exact h
  slot _ _ _ _ h := h
  observer _ _ _ h := h
  reset _ := .inl rfl
  routed hf hr h := by
    obtain ⟨_, hstatus⟩ | ⟨_, c, hstatus⟩ := hr.status_cases <;> rw [State.statusLegal, hstatus]
    · exact h
    · exact statusLegal_setFatal h hf c

/-- Settles O45: STATUS is written by `setFatal` with FATAL clear, and by RESET. -/
theorem stepKeepsStatusLegal : Obligations.StepKeepsStatusLegal := by
  unfold Obligations.StepKeepsStatusLegal
  exact fun s t h ht => statusLegal_kept.step ht h

/-! ### Sizes and parameters -/

theorem params_kept (p : Params) : Kept (fun s => s.params = p) where
  congr _ hparams h := hparams.trans h
  slot _ _ _ _ h := h
  observer _ _ _ h := h
  reset h := h
  routed _ hr h := hr.params.trans h

theorem sizesFit_kept : Kept State.sizesFit where
  congr := by
    rintro s t ⟨_, _, hhandlers, hobs, hpackets, herrors, _⟩ hparams h
    simp only [State.sizesFit, hparams, hobs, hpackets, herrors, State.slot_congr hhandlers]
    exact h
  slot {s} p slot _ hid := by
    rintro ⟨hpackets, herrors, hlen, hobs, hslots⟩
    refine ⟨hpackets, herrors, hlen, hobs, fun q => ?_⟩
    rw [State.setSlot_slot]
    split
    · obtain hfits | hold := hid
      · exact hfits
      · rw [hold]; exact hslots p
    · exact hslots q
  observer {s} o hne ho := by
    rintro ⟨hpackets, herrors, hlen, hobs, hslots⟩
    refine ⟨hpackets, herrors, ?_, fun o' ho' => ?_, hslots⟩
    · rw [List.length_append]
      exact Nat.lt_of_le_of_ne hlen hne
    · obtain ho' | ho' := List.mem_append.1 ho'
      · exact hobs o' ho'
      · rwa [List.mem_singleton.1 ho']
  reset _ := ⟨Nat.two_pow_pos _, Nat.two_pow_pos _, Nat.zero_le _, nofun, fun _ => Nat.two_pow_pos _⟩
  routed {s t} _ _ _ hr := by
    rintro ⟨_, herrors, hlen, hobs, hslots⟩
    have herrors' : t.totalCcErrors < 2 ^ s.params.cntW.val := by
      obtain h | h := hr.totalCcErrors_cases <;> rw [h]
      · exact herrors
      · exact wrap_lt ..
    simp only [State.sizesFit, hr.params, hr.totalPackets, hr.obs, hr.slot]
    exact ⟨wrap_lt .., herrors', hlen, hobs, hslots⟩

/-- Settles O46: no write changes the parameters, and every write of a sized register fits. -/
theorem stepKeepsSizesAndParameters : Obligations.StepKeepsSizesAndParameters := by
  unfold Obligations.StepKeepsSizesAndParameters
  exact fun s t ht => ⟨(params_kept s.params).step ht rfl, sizesFit_kept.step ht⟩

/-! ### An unbounded section buffer -/

/-- R228: what keeps the fatal state out of reach. -/
def unboundedOk (s : State) : Prop := s.params.sectionBufMax = none ∧ s.noFault ∧ s.accumsOk

theorem overflows_of_unbounded {p : Params} (h : p.sectionBufMax = none) (len : Nat) : overflows p len = false := by
  simp only [overflows, h]

theorem Reoffered.ok_of_unbounded {v t : State} {f : Framed} {st : Status} (h : Reoffered v f t st)
    (hmax : v.params.sectionBufMax = none) : st = .ok ∧ t.status = v.status := by
  cases h with
  | ignored => exact ⟨rfl, rfl⟩
  | started => exact ⟨rfl, rfl⟩
  | tooLong _ hlong => rw [overflows_of_unbounded hmax] at hlong; cases hlong

/-- R132, R133: routing is fatal only on a non-empty buffer in AwaitingStart or past the bound. -/
theorem Routed.ok_of_unbounded {s t : State} {f : Framed} {st : Status} (h : Routed s f t st)
    (hmax : s.params.sectionBufMax = none)
    (hbuf : (s.accum f.pid.toNat).state = .awaitingStart → (s.accum f.pid.toNat).buf = []) :
    st = .ok ∧ t.status = s.status := by
  cases h with
  | null => exact ⟨rfl, rfl⟩
  | broken _ hstate hne => exact absurd (hbuf hstate) hne
  | awaiting _ _ _ _ _ hr => exact hr.ok_of_unbounded hmax
  | wrongCounter _ _ _ _ _ _ hr => exact hr.ok_of_unbounded hmax
  | completed _ _ _ _ _ _ _ hr => exact hr.ok_of_unbounded hmax
  | appended => exact ⟨rfl, rfl⟩
  | appendTooLong _ _ _ _ _ hlong => rw [overflows_of_unbounded hmax] at hlong; cases hlong

/-- R29: an accumulator that awaits a start has an empty buffer. -/
theorem Accum.ok.buf_eq_nil {p : Params} {a : Accum} (h : a.ok p) (hstate : a.state = .awaitingStart) : a.buf = [] := by
  simp only [Accum.ok, hstate] at h
  exact h.1

theorem unboundedOk_kept : Kept unboundedOk where
  congr := by
    rintro s t hregs hparams ⟨hmax, hfault, hok⟩
    have hok' := accumsOk_kept.congr hregs hparams hok
    obtain ⟨_, _, _, _, _, _, hstatus⟩ := hregs
    exact ⟨by rw [hparams, hmax], by rw [State.noFault, State.fatal, hstatus]; exact hfault, hok'⟩
  slot _ _ _ _ h := h
  observer _ _ _ h := h
  reset := by
    rintro s ⟨hmax, _⟩
    exact ⟨hmax, s.resetRegisters_fatal, fun _ => ⟨rfl, rfl, rfl⟩⟩
  routed := by
    rintro s t f st hf hr ⟨hmax, hfault, hok⟩
    obtain ⟨_, hstatus⟩ := hr.ok_of_unbounded hmax fun hstate => (hok _).buf_eq_nil hstate
    exact ⟨by rw [hr.params, hmax], by rw [State.noFault, State.fatal, hstatus]; exact hfault,
      accumsOk_kept.routed hf hr hok⟩

/-- Settles O47: every step answers, and keeps the three properties together. -/
theorem unboundedBufferNeverFatal : Obligations.UnboundedBufferNeverFatal := by
  unfold Obligations.UnboundedBufferNeverFatal
  intro s hmax hfault hok
  obtain ⟨t, ht, _⟩ := step_stepped s
  exact ⟨t, ht, unboundedOk_kept.step ht ⟨hmax, hfault, hok⟩⟩

/-! ### The reset state -/

/-- Settles O48: every file is empty after reset, every register 0. -/
theorem resetMeetsTheInvariants : Obligations.ResetMeetsTheInvariants := by
  unfold Obligations.ResetMeetsTheInvariants
  have hfiles : State.reset.filesCanonical := ⟨Memory.wf_nil _, Memory.wf_nil _, Memory.wf_nil _⟩
  have haccums : State.reset.accumsOk := fun _ => ⟨rfl, rfl, rfl⟩
  have hpkts : State.reset.pktsPositive := fun p prev h => by rw [State.reset_accum] at h; cases h
  have hcovers : State.reset.seenCovers := fun p h => absurd (State.reset_accum p) h
  have hsizes : State.reset.sizesFit :=
    ⟨Nat.two_pow_pos _, Nat.two_pow_pos _, Nat.zero_le _, nofun, fun _ => Nat.two_pow_pos _⟩
  exact ⟨hfiles, haccums, hpkts, ⟨rfl, rfl⟩, fun _ _ => ⟨rfl, rfl, rfl⟩, hcovers, .inl rfl, hsizes,
    by rw [State.noFault, State.fatal]; decide, rfl⟩

end Sys2Proof.Machine
end

section
/-!
PROOFS. What a step answers, what it emits, and which instructions touch an accumulator or TOTAL_PACKETS (60_exceptions.md
R226 and R228, 41_section_accumulator.md R129, R134 and R137, 42_demultiplexer.md R142 and R148).
-/

namespace Sys2Proof.Machine

open Sys2Proof.Config

/-! ### Responses -/

/-- Settles O9: a whole word is rejected or run, with one response either way; the records are those emitted. -/
theorem oneResponsePerCommand : Obligations.OneResponsePerCommand := by
  unfold Obligations.OneResponsePerCommand
  intro s
  obtain ⟨t, ht, hx⟩ := step_stepped s
  cases hx with
  | waited hword => exact ⟨_, [], ht, fun _ => ⟨rfl, rfl⟩, fun h => absurd hword h, (List.append_nil _).symm, rfl, rfl⟩
  | rejected rest st hword =>
    exact ⟨_, [], ht, fun h => absurd h hword, fun _ => ⟨_, rfl⟩, (List.append_nil _).symm, rfl, rfl⟩
  | ran i rest _ hword _ hx =>
    obtain ⟨hrsp, ⟨records, hevt, _⟩, hlog, hfailures⟩ := hx.channels
    refine ⟨t, records, ht, fun h => ?_, fun _ => hrsp, hevt, hlog, hfailures⟩
    rw [hword] at h
    cases h

/-- R226: an exception other than a new `Fatal` answers the status alone and writes nothing. -/
theorem Executed.precise {i : Instr} {s t : State} (h : Executed i s t) {r : Response} (hr : t.rsp = s.rsp ++ [r])
    (hok : r.status ≠ .ok) (hfatal : r.status = .fatal → s.fatal = true) :
    s.sameRegisters t ∧ t.evt = s.evt ∧ t.params = s.params ∧ r.data = [] := by
  have answer {q : Response} (hq : t.rsp = s.rsp ++ [q]) : r = q := by
    rw [hr] at hq
    exact List.singleton_inj.1 (List.append_cancel_left hq)
  cases h with
  | answered st data _ hdata =>
    cases answer rfl
    exact ⟨⟨rfl, rfl, rfl, rfl, rfl, rfl, rfl⟩, rfl, rfl, hdata hok⟩
  | refused =>
    cases answer rfl
    exact ⟨⟨rfl, rfl, rfl, rfl, rfl, rfl, rfl⟩, rfl, rfl, rfl⟩
  | registered => cases answer rfl; exact absurd rfl hok
  | observed => cases answer rfl; exact absurd rfl hok
  | routed f u st hf _ hrouted =>
    cases answer (q := ⟨st, []⟩) (by rw [State.raise_rsp, hrouted.rsp])
    obtain ⟨hst, _⟩ | ⟨hst, _⟩ := hrouted.status_cases
    · exact absurd hst hok
    · rw [hfatal hst] at hf; cases hf
  | reset => cases answer rfl; exact absurd rfl hok

/-- Settles O49: a waiting step answers nothing, a rejected word is answered at once, and an instruction is precise. -/
theorem exceptionsArePrecise : Obligations.ExceptionsArePrecise := by
  unfold Obligations.ExceptionsArePrecise
  intro s t r ht hr hok hfatal
  cases Stepped.of_step ht with
  | waited => exact absurd (List.self_eq_append_right.1 hr) (List.cons_ne_nil _ _)
  | rejected rest st =>
    cases List.singleton_inj.1 (List.append_cancel_left hr)
    exact ⟨⟨rfl, rfl, rfl, rfl, rfl, rfl, rfl⟩, rfl, rfl, rfl⟩
  | ran i rest _ _ _ hx => exact hx.precise hr hok hfatal

/-- R228: in the fatal state an instruction other than RESET only answers. -/
theorem Executed.fatal_sticky {i : Instr} {s t : State} (h : Executed i s t) (hf : s.fatal = true) (hi : i ≠ .reset) :
    s.sameRegisters t ∧ t.evt = s.evt := by
  cases h with
  | answered => exact ⟨⟨rfl, rfl, rfl, rfl, rfl, rfl, rfl⟩, rfl⟩
  | refused => exact ⟨⟨rfl, rfl, rfl, rfl, rfl, rfl, rfl⟩, rfl⟩
  | registered _ _ hno => rw [hf] at hno; cases hno
  | observed _ hno => rw [hf] at hno; cases hno
  | routed _ _ _ hno => rw [hf] at hno; cases hno
  | reset h => exact absurd h hi

/-- Settles O50: no register changes, so STATUS with FATAL and the cause does not. -/
theorem fatalIsStickyUntilReset : Obligations.FatalIsStickyUntilReset := by
  unfold Obligations.FatalIsStickyUntilReset
  intro s t hf ht hreset
  have hsame : s.sameRegisters t ∧ t.evt = s.evt := by
    cases Stepped.of_step ht with
    | waited => exact ⟨⟨rfl, rfl, rfl, rfl, rfl, rfl, rfl⟩, rfl⟩
    | rejected => exact ⟨⟨rfl, rfl, rfl, rfl, rfl, rfl, rfl⟩, rfl⟩
    | ran i rest _ hword _ hx => exact hx.fatal_sticky hf fun hi => hreset rest (hi ▸ hword)
  obtain ⟨hregs, hevt⟩ := hsame
  obtain ⟨_, _, _, _, _, _, hstatus⟩ := id hregs
  exact ⟨hregs, (congrArg (·.getLsbD 0) hstatus).trans hf, congrArg (·.extractLsb' 1 2) hstatus, hevt⟩

/-! ### Which instructions touch an accumulator, and which TOTAL_PACKETS -/

/-- An instruction that is framed is an ACCEPT of some form, and framing is that of its packet. -/
theorem command_of_framing {i : Instr} (hwf : i.wellFormed = true) {r : Except Status Framed} (h : framing i = some r) :
    ∃ pkt, i.command = .accept pkt ∧ frame pkt = r := by
  rw [framing_command hwf] at h
  cases i with
  | accept | tsTei | tsP | tsAp | tsSp | tsAsp | tsBadsync => exact ⟨_, rfl, Option.some.inj h⟩
  | _ => cases h

theorem framing_of_command {i : Instr} (hwf : i.wellFormed = true) {pkt : Bytes 188} (h : i.command = .accept pkt) :
    framing i = some (frame pkt) := by
  rw [framing_command hwf, h]
  rfl

theorem State.bufByte_congr {s t : State} {p : Nat} (h : t.accum p = s.accum p) (k : Nat) :
    t.bufByte p k = s.bufByte p k := congrArg (·.buf[k]?) h

/-- Settles O51: an instruction that routes no packet writes no accumulator, and a packet routed writes that of its own PID
alone. -/
theorem onlyItsOwnPacketsChangeAnAccumulator : Obligations.OnlyItsOwnPacketsChangeAnAccumulator := by
  unfold Obligations.OnlyItsOwnPacketsChangeAnAccumulator
  intro i p s t hwf ht hreset hothers
  have untouched : t.accum p = s.accum p ∧ t.seenBit p = s.seenBit p := by
    cases Executed.of_exec ht with
    | routed f u st _ hframing hr =>
      obtain ⟨pkt, hcommand, hframe⟩ := command_of_framing hwf hframing
      have hp : f.pid = NULL_PID ∨ p ≠ f.pid.toNat := by
        by_cases hown : f.pid.toNat = p
        · exact .inl (hothers pkt f hcommand hframe hown)
        · exact .inr (Ne.symm hown)
      exact hr.untouched hp
    | reset h => exact absurd h hreset
    | _ => exact ⟨rfl, rfl⟩
  obtain ⟨haccum, hseen⟩ := untouched
  exact ⟨haccum, hseen, State.bufByte_congr haccum⟩

theorem acceptFramed_ok {s : State} (hf : s.fatal = false) (f : Framed) :
    acceptFramed s (.ok f) = (routePacket s f).1.raise (routePacket s f).2 := by
  simp only [acceptFramed, hf, Bool.false_eq_true, ↓reduceIte]

/-- Settles O52: the count is made where a packet is routed, and nowhere else. -/
theorem totalPacketsCountsFramedPackets : Obligations.TotalPacketsCountsFramedPackets := by
  unfold Obligations.TotalPacketsCountsFramedPackets
  intro i s t hwf ht hreset
  refine ⟨fun pkt f hcommand hframe hf => ?_, fun hno => ?_⟩
  · rw [exec_of_framing (framing_of_command hwf hcommand), hframe, acceptFramed_ok hf] at ht
    cases ht
    exact (routePacket_routed s f).totalPackets
  · cases Executed.of_exec ht with
    | routed f u st hf hframing =>
      obtain ⟨pkt, hcommand, hframe⟩ := command_of_framing hwf hframing
      obtain hno | hfatal := hno
      · exact absurd hframe (hno pkt f hcommand)
      · rw [hf] at hfatal; cases hfatal
    | reset h => exact absurd h hreset
    | _ => rfl

/-! ### Records -/

theorem tableRecords_length (s : State) (p : BitVec 13) (e : Event) :
    (tableRecords s p e).length = s.obs.length + (if (s.slot p.toNat).hvalid then 1 else 0) := by
  rw [tableRecords, List.length_append, List.length_map]
  split <;> rfl

/-- R149: only a broadcast continuity error does not go through the tables. -/
theorem dispatchRecords_eq_tableRecords {s : State} {e : Event}
    (h : s.params.ccErrRouting = .asSections ∨ ∃ bytes, e = .sectionComplete bytes) (p : BitVec 13) :
    dispatchRecords s p e = tableRecords s p e := by
  obtain hrouting | ⟨bytes, rfl⟩ := h
  · cases e with
    | sectionComplete => rfl
    | continuityError => rw [dispatchRecords_ccError, hrouting, if_neg (by decide)]
  · rfl

/-- Settles O54: what is emitted is the records of one event, whose number the tables give. -/
theorem atMostOneEventPerStep : Obligations.AtMostOneEventPerStep := by
  unfold Obligations.AtMostOneEventPerStep
  intro s t ht
  have length {p : BitVec 13} {e : Event}
      (h : s.params.ccErrRouting = .asSections ∨ ∃ bytes, e = .sectionComplete bytes) :
      (dispatchRecords s p e).length = s.obs.length + (if (s.slot p.toNat).hvalid then 1 else 0) := by
    rw [dispatchRecords_eq_tableRecords h, tableRecords_length]
  obtain ⟨records, hevt, hrecords⟩ := (Stepped.of_step ht).emitted
  cases hrecords with
  | nothing => exact .inl (hevt.trans (List.append_nil _))
  | sectionRecords p bytes => exact .inr ⟨p, _, hevt, length⟩
  | errorRecords p prev actual => exact .inr ⟨p, _, hevt, length⟩

/-- R92, R146: every record of a dispatch carries the event dispatched. -/
theorem event_of_mem_dispatchRecords {s : State} {p : BitVec 13} {e : Event} {r : EvtRecord}
    (h : r ∈ dispatchRecords s p e) : r.event = e := by
  have tables (h : r ∈ tableRecords s p e) : r.event = e := by
    obtain h | h := List.mem_append.1 h
    · obtain ⟨_, _, rfl⟩ := List.mem_map.1 h
      rfl
    · split at h
      · cases List.mem_singleton.1 h; rfl
      · cases h
  cases e with
  | sectionComplete bytes => exact tables h
  | continuityError a b c =>
    rw [dispatchRecords_ccError] at h
    split at h
    · cases List.mem_singleton.1 h; rfl
    · exact tables h

theorem cc_succ_toNat (prev : BitVec 4) : (prev + 1).toNat = (prev.toNat + 1) % 16 := BitVec.toNat_add ..

/-- Settles O55: the one continuity error a step can emit is that of a wrong counter. -/
theorem reportedCountersAreConsistent : Obligations.ReportedCountersAreConsistent := by
  unfold Obligations.ReportedCountersAreConsistent
  intro s t r prev expected actual ht hmem hevent
  obtain ⟨records, hevt, hrecords⟩ := (Stepped.of_step ht).emitted
  rw [hevt, List.drop_left] at hmem
  cases hrecords with
  | nothing => cases hmem
  | sectionRecords p bytes =>
    rw [event_of_mem_dispatchRecords hmem] at hevent
    cases hevent
  | errorRecords p prev' actual' hne =>
    rw [event_of_mem_dispatchRecords hmem] at hevent
    cases hevent
    exact ⟨cc_succ_toNat prev, hne⟩

end Sys2Proof.Machine
end

section
/-!
PROOFS. 41_section_accumulator.md R120 to R133: ACCEPT of a framed packet, case by case. One rule for each operation an
ACCEPT goes through, then what routing leaves in each case, then the statements.
-/

namespace Sys2Proof.Machine

open Sys2Proof.Config

/-! ### Counters and bounds as the statements write them -/

theorem cc_eq_succ_iff (cc prev : BitVec 4) : cc = prev + 1 ↔ cc.toNat = (prev.toNat + 1) % 16 := by
  rw [← cc_succ_toNat, BitVec.toNat_inj]

/-- R129. -/
theorem ofNat_cc_succ (prev : BitVec 4) : BitVec.ofNat 4 ((prev.toNat + 1) % 16) = prev + 1 := by
  rw [← cc_succ_toNat, BitVec.ofNat_toNat, BitVec.setWidth_eq]

theorem overflows_eq_false {p : Params} {len : Nat} (h : ∀ m, p.sectionBufMax = some m → len ≤ m) :
    overflows p len = false := by
  unfold overflows
  cases hmax : p.sectionBufMax with
  | none => rfl
  | some m => exact decide_eq_false (Nat.not_lt.2 (h m hmax))

theorem overflows_eq_true {p : Params} {m len : Nat} (hmax : p.sectionBufMax = some m) (hlen : m < len) :
    overflows p len = true := by
  simp only [overflows, hmax]
  exact decide_eq_true hlen

/-! ### The AwaitingStart handling -/

section AwaitingStart

variable {v : State} {p : Nat} {f : Framed}

/-- R132. -/
theorem awaitingStart_of_nonEmpty (hbuf : (v.accum p).buf ≠ []) :
    awaitingStart v p f = (v.setFatal .invariantViolation, .fatal) := if_pos hbuf

/-- R133. -/
theorem awaitingStart_of_tooLong (hbuf : (v.accum p).buf = []) (hpusi : f.pusi = true)
    (hlong : overflows v.params f.main.length = true) :
    awaitingStart v p f = (v.setFatal .bufferOverflow, .fatal) := by
  simp [awaitingStart, endFatal, hbuf, hpusi, hlong]

/-- R122. -/
theorem awaitingStart_of_starts (hbuf : (v.accum p).buf = []) (hpusi : f.pusi = true)
    (hfits : overflows v.params f.main.length = false) :
    awaitingStart v p f = (v.setAccum p (startedAccum v.params f), .ok) := by
  simp [awaitingStart, hbuf, hpusi, hfits]

/-- R121, R122: within the bound, the packet starts a section or is ignored. -/
theorem awaitingStart_within_bound (hbuf : (v.accum p).buf = [])
    (hfits : f.pusi = true → overflows v.params f.main.length = false) :
    ∃ acc, awaitingStart v p f = ({ v with acc := acc }, .ok) ∧
      State.accum { v with acc := acc } p = if f.pusi then startedAccum v.params f else v.accum p := by
  cases hpusi : f.pusi with
  | true => exact ⟨_, awaitingStart_of_starts hbuf hpusi (hfits hpusi),
      Memory.read_write_same Accum.idle v.acc p (startedAccum v.params f)⟩
  | false => exact ⟨_, awaitingStart_of_no_unitStart hbuf hpusi, rfl⟩

end AwaitingStart

theorem clearAccum_buf (v : State) (p : Nat) : ((v.clearAccum p).accum p).buf = [] := by simp [Accum.idle]

/-! ### Routing -/

section Routing

variable {s : State} {f : Framed}

/-- The state in which a packet with a wrong counter is re-offered (R124): the error counted and reported, the accumulator
cleared. -/
def State.broken (s : State) (prev : BitVec 4) (f : Framed) : State :=
  ((s.counted f.pid.toNat).countCcError.dispatch f.pid (.continuityError prev (prev + 1) f.cc)).clearAccum f.pid.toNat

/-- The state in which a packet that completes a section is re-offered (R126): the section reported, the accumulator
cleared. -/
def State.completed (s : State) (f : Framed) : State :=
  ((s.counted f.pid.toNat).dispatch f.pid
    (.sectionComplete ((s.accum f.pid.toNat).buf ++ f.tail))).clearAccum f.pid.toNat

theorem State.broken_buf (s : State) (prev : BitVec 4) (f : Framed) :
    ((s.broken prev f).accum f.pid.toNat).buf = [] := clearAccum_buf ..

theorem State.completed_buf (s : State) (f : Framed) : ((s.completed f).accum f.pid.toNat).buf = [] :=
  clearAccum_buf ..

theorem State.broken_evt (s : State) (prev : BitVec 4) (f : Framed) :
    (s.broken prev f).evt = s.evt ++ dispatchRecords s f.pid (.continuityError prev (prev + 1) f.cc) := rfl

theorem State.completed_evt (s : State) (f : Framed) :
    (s.completed f).evt =
      s.evt ++ tableRecords s f.pid (.sectionComplete ((s.accum f.pid.toNat).buf ++ f.tail)) := rfl

theorem routePacket_of_awaiting (hpid : f.pid ≠ NULL_PID) (hstate : (s.accum f.pid.toNat).state = .awaitingStart) :
    routePacket s f = awaitingStart (s.counted f.pid.toNat) f.pid.toNat f := by
  rw [routePacket_of_ne_null s hpid, accStep_of_awaitingStart (by rwa [State.counted_accum])]

variable {prev : BitVec 4} (hpid : f.pid ≠ NULL_PID) (hstate : (s.accum f.pid.toNat).state = .accumulating prev)
include hpid hstate

theorem routePacket_of_wrongCounter (hcc : f.cc ≠ prev + 1) :
    routePacket s f = awaitingStart (s.broken prev f) f.pid.toNat f := by
  rw [routePacket_of_ne_null s hpid]
  simp only [accStep, State.counted_accum, hstate, hcc, ne_eq, not_false_eq_true, ↓reduceIte]
  rfl

theorem routePacket_of_completes (hcc : f.cc = prev + 1) (hpusi : f.pusi = true) :
    routePacket s f = awaitingStart (s.completed f) f.pid.toNat f := by
  rw [routePacket_of_ne_null s hpid]
  simp only [accStep, State.counted_accum, hstate, hcc, hpusi, ne_eq, not_true_eq_false, ↓reduceIte]
  rfl

theorem routePacket_of_continues (hcc : f.cc = prev + 1) (hpusi : f.pusi = false) :
    routePacket s f = appendPacket (s.counted f.pid.toNat) f := by
  rw [routePacket_of_ne_null s hpid]
  simp only [accStep, State.counted_accum, hstate, hcc, hpusi, ne_eq, not_true_eq_false, Bool.false_eq_true,
    ↓reduceIte]

/-- R125. -/
theorem routePacket_of_appends (hcc : f.cc = prev + 1) (hpusi : f.pusi = false)
    (hfits : overflows s.params ((s.accum f.pid.toNat).buf.length + f.main.length) = false) :
    routePacket s f =
      ((s.counted f.pid.toNat).setAccum f.pid.toNat (appendedAccum s.params (s.accum f.pid.toNat) f), .ok) := by
  rw [routePacket_of_continues hpid hstate hcc hpusi]
  exact if_neg (Bool.eq_false_iff.1 hfits)

/-- R133. -/
theorem routePacket_of_appendTooLong (hcc : f.cc = prev + 1) (hpusi : f.pusi = false)
    (hlong : overflows s.params ((s.accum f.pid.toNat).buf.length + f.main.length) = true) :
    routePacket s f = ((s.counted f.pid.toNat).setFatal .bufferOverflow, .fatal) := by
  rw [routePacket_of_continues hpid hstate hcc hpusi]
  exact if_pos hlong

end Routing

/-! ### Frames -/

/-- R22: nothing of another PID changes. -/
theorem Routed.others {s t : State} {f : Framed} {st : Status} (h : Routed s f t st) {q : Nat}
    (hq : q ≠ f.pid.toNat) :
    t.accum q = s.accum q ∧ t.seenBit q = s.seenBit q ∧ ∀ i, t.bufByte q i = s.bufByte q i := by
  obtain ⟨haccum, hseen⟩ := h.untouched (.inr hq)
  exact ⟨haccum, hseen, State.bufByte_congr haccum⟩

/-- R142, R144: `t` is `s` after a packet of PID `p` whose accumulator has become `a`: the packet counted, the PID seen, OK
answered, nothing else changed. -/
def Stored (s : State) (p : Nat) (a : Accum) (t : State) : Prop :=
  t.accum p = a ∧ t.seenBit p = true ∧
    (∀ q, q ≠ p → t.accum q = s.accum q ∧ t.seenBit q = s.seenBit q ∧ ∀ i, t.bufByte q i = s.bufByte q i) ∧
    t = { s with totalPackets := (s.totalPackets + 1) % 2 ^ s.params.cntW.val, seen := t.seen, acc := t.acc,
                 rsp := s.rsp ++ [⟨.ok, []⟩] }

theorem stored_setAccum (s : State) (p : Nat) (a : Accum) :
    Stored s p a (((s.counted p).setAccum p a).raise .ok) := by
  refine ⟨by simp, by simp, fun q hq => ?_, rfl⟩
  have haccum : (((s.counted p).setAccum p a).raise .ok).accum q = s.accum q := by simp [hq]
  exact ⟨haccum, by simp [hq], State.bufByte_congr haccum⟩

/-- R122, R123. -/
theorem acceptFramed_starts {s : State} {f : Framed} (hfatal : s.fatal = false) (hpid : f.pid ≠ NULL_PID)
    (hstate : (s.accum f.pid.toNat).state = .awaitingStart) (hbuf : (s.accum f.pid.toNat).buf = [])
    (hpusi : f.pusi = true) (hfits : overflows s.params f.main.length = false) :
    acceptFramed s (.ok f) =
      ((s.counted f.pid.toNat).setAccum f.pid.toNat (startedAccum s.params f)).raise .ok := by
  rw [acceptFramed_ok hfatal, routePacket_of_awaiting hpid hstate,
    awaitingStart_of_starts (v := s.counted _) hbuf hpusi hfits]
  rfl

/-- R125. -/
theorem acceptFramed_appends {s : State} {f : Framed} {prev : BitVec 4} (hfatal : s.fatal = false)
    (hpid : f.pid ≠ NULL_PID) (hstate : (s.accum f.pid.toNat).state = .accumulating prev) (hcc : f.cc = prev + 1)
    (hpusi : f.pusi = false)
    (hfits : overflows s.params ((s.accum f.pid.toNat).buf.length + f.main.length) = false) :
    acceptFramed s (.ok f) = ((s.counted f.pid.toNat).setAccum f.pid.toNat
      (appendedAccum s.params (s.accum f.pid.toNat) f)).raise .ok := by
  rw [acceptFramed_ok hfatal, routePacket_of_appends hpid hstate hcc hpusi hfits]

theorem exec_accept {p : Bytes 188} {r : Except Status Framed} (hframe : frame p = r) (s : State) :
    exec (.accept p) s = .next (acceptFramed s r) := exec_of_framing (i := .accept p) (congrArg some hframe) s

theorem acceptFramed_error {s : State} (hfatal : s.fatal = false) (e : Status) :
    acceptFramed s (.error e) = s.raise e := by
  simp only [acceptFramed, hfatal, Bool.false_eq_true, ↓reduceIte]

/-! ### The statements -/

/-- Settles O27: the framer's error is the answer. -/
theorem rejectedPacketChangesNothing : Obligations.RejectedPacketChangesNothing := by
  unfold Obligations.RejectedPacketChangesNothing
  intro p e s hframe hfatal
  rw [exec_accept hframe, acceptFramed_error hfatal]
  rfl

/-- Settles O30: the accumulator is written with the first packet of a section. -/
theorem unitStartStartsASection : Obligations.UnitStartStartsASection := by
  unfold Obligations.UnitStartStartsASection
  intro p f s hframe hpid hfatal hstate hbuf hpusi hbound
  refine ⟨_, exec_accept hframe s, ?_⟩
  rw [acceptFramed_starts hfatal hpid hstate hbuf hpusi (overflows_eq_false hbound)]
  exact stored_setAccum s f.pid.toNat _

/-- Settles O31: the accumulator is written with one packet more, whose bytes come after those in the buffer. -/
theorem inOrderPacketIsAppended : Obligations.InOrderPacketIsAppended := by
  unfold Obligations.InOrderPacketIsAppended
  intro p f prev s hframe hpid hfatal hstate hcc hpusi hbound
  refine ⟨_, exec_accept hframe s, ?_⟩
  rw [acceptFramed_appends hfatal hpid hstate ((cc_eq_succ_iff ..).2 hcc) hpusi (overflows_eq_false hbound)]
  obtain ⟨haccum, hrest⟩ := stored_setAccum s f.pid.toNat (appendedAccum s.params (s.accum f.pid.toNat) f)
  refine ⟨haccum, fun i hi => ?_, hrest⟩
  rw [State.bufByte, haccum]
  exact List.getElem?_append_left hi

/-- R146: the records through the tables, put behind what is on EVT already. -/
theorem append_tableRecords (evt : List EvtRecord) (s : State) (p : BitVec 13) (e : Event) :
    evt ++ tableRecords s p e = evt ++ s.obs.map (fun o => ⟨.globalObserver, o, p, e⟩) ++
      (if (s.slot p.toNat).hvalid then [⟨.pidHandler, (s.slot p.toNat).hid, p, e⟩] else []) :=
  (List.append_assoc ..).symm

/-- Settles O32: the section is reported and cleared, and the packet starts the next. -/
theorem inOrderUnitStartCompletesTheSection : Obligations.InOrderUnitStartCompletesTheSection := by
  unfold Obligations.InOrderUnitStartCompletesTheSection
  intro p f prev s hframe hpid hfatal hstate hcc hpusi hbound event
  have hroute := routePacket_of_completes hpid hstate ((cc_eq_succ_iff ..).2 hcc) hpusi
  rw [awaitingStart_of_starts (State.completed_buf ..) hpusi (overflows_eq_false hbound)] at hroute
  have hr := routePacket_routed s f
  rw [hroute] at hr
  refine ⟨_, exec_accept_of_framed hframe hfatal, ?_⟩
  rw [hroute]
  exact ⟨Memory.read_write_same Accum.idle _ _ (startedAccum s.params f),
    (State.completed_evt s f).trans (append_tableRecords ..), hr.seenBit_own hpid,
    fun q hq => hr.others hq, rfl⟩

/-- R149: the records of a continuity error under either routing. -/
theorem ccError_records (s : State) (f : Framed) (prev : BitVec 4) :
    (s.params.ccErrRouting = .asSections →
      (s.broken prev f).evt = s.evt ++ tableRecords s f.pid (.continuityError prev (prev + 1) f.cc)) ∧
    (s.params.ccErrRouting = .broadcastOnly →
      (s.broken prev f).evt = s.evt ++ [broadcastRecord f.pid (.continuityError prev (prev + 1) f.cc)]) := by
  constructor <;> intro hrouting <;> rw [State.broken_evt, dispatchRecords_ccError, hrouting]
  · rw [if_neg (by decide)]
  · rw [if_pos rfl]

/-- Settles O33: the error is counted and reported, the accumulator cleared, and the packet starts a section or is
ignored. -/
theorem wrongCounterDiscardsAndReports : Obligations.WrongCounterDiscardsAndReports := by
  unfold Obligations.WrongCounterDiscardsAndReports
  intro p f prev s hframe hpid hfatal hstate hcc hbound
  simp only [ofNat_cc_succ]
  have hroute := routePacket_of_wrongCounter hpid hstate (mt (cc_eq_succ_iff ..).1 hcc)
  obtain ⟨acc, hstart, haccum⟩ := awaitingStart_within_bound (State.broken_buf s prev f)
    fun hpusi => overflows_eq_false (hbound hpusi)
  rw [hstart] at hroute
  have hr := routePacket_routed s f
  rw [hroute] at hr
  obtain ⟨htables, hbroadcast⟩ := ccError_records s f prev
  refine ⟨_, exec_accept_of_framed hframe hfatal, ?_⟩
  rw [hroute]
  refine ⟨haccum.trans ?_, fun h => (htables h).trans (append_tableRecords ..), hbroadcast, hr.seenBit_own hpid,
    fun q hq => hr.others hq, rfl⟩
  have hidle : (s.broken prev f).accum f.pid.toNat = Accum.idle := by simp [State.broken]
  rw [hidle]
  rfl

/-- R228: the registers `setFatal` leaves, with no fault before. -/
theorem setFatal_spec {v : State} (hf : v.fatal = false) (c : FatalCause) :
    (v.setFatal c).fatal = true ∧ (v.setFatal c).cause = c.code ∧
      (v.setFatal c).status &&& 0xF8 = v.status &&& 0xF8 := by
  refine ⟨v.setFatal_fatal c, by simp [hf], ?_⟩
  have hreserved (st : BitVec 8) : statusWith st c &&& 0xF8 = st &&& 0xF8 := by cases c <;> revert st <;> decide
  rw [State.setFatal_status, hf]
  exact hreserved v.status

/-- R132, R133, R228: a packet that becomes fatal before its accumulator is touched. -/
theorem exec_accept_fatal {p : Bytes 188} {f : Framed} {s : State} {c : FatalCause} (hframe : frame p = .ok f)
    (hfatal : s.fatal = false) (hroute : routePacket s f = ((s.counted f.pid.toNat).setFatal c, .fatal)) :
    ∃ t, exec (.accept p) s = .next t ∧ t.fatal = true ∧ t.cause = c.code ∧
      t.status &&& 0xF8 = s.status &&& 0xF8 ∧ t.seenBit f.pid.toNat = true ∧
      (∀ q, q ≠ f.pid.toNat → t.seenBit q = s.seenBit q) ∧
      t = { s with totalPackets := (s.totalPackets + 1) % 2 ^ s.params.cntW.val, seen := t.seen,
                   status := t.status, rsp := s.rsp ++ [⟨.fatal, []⟩] } := by
  have hcounted : (s.counted f.pid.toNat).fatal = false := hfatal
  obtain ⟨hset, hcause, hreserved⟩ := setFatal_spec hcounted c
  refine ⟨_, exec_accept_of_framed hframe hfatal, ?_⟩
  rw [hroute]
  refine ⟨hset, hcause, hreserved, by simp, fun q hq => by simp [hq], ?_⟩
  rw [State.setFatal_frame]
  rfl

/-- Settles O34: the append is the only thing left undone. -/
theorem appendPastTheBoundIsFatal : Obligations.AppendPastTheBoundIsFatal := by
  unfold Obligations.AppendPastTheBoundIsFatal
  intro p f prev m s hframe hpid hfatal hstate hcc hpusi hmax hlong
  exact exec_accept_fatal hframe hfatal
    (routePacket_of_appendTooLong hpid hstate ((cc_eq_succ_iff ..).2 hcc) hpusi (overflows_eq_true hmax hlong))

/-- Settles O35: the start on an awaiting accumulator passes the bound before anything of it is written. -/
theorem awaitingStartPastTheBoundIsFatal : Obligations.AwaitingStartPastTheBoundIsFatal := by
  unfold Obligations.AwaitingStartPastTheBoundIsFatal
  intro p f m s hframe hpid hfatal hstate hbuf hpusi hmax hlong
  refine exec_accept_fatal (c := .bufferOverflow) hframe hfatal ?_
  rw [routePacket_of_awaiting hpid hstate,
    awaitingStart_of_tooLong (v := s.counted _) hbuf hpusi (overflows_eq_true hmax hlong)]

/-- Settles O37: the check for a non-empty buffer comes first in the AwaitingStart handling. -/
theorem nonEmptyBufferInAwaitingIsFatal : Obligations.NonEmptyBufferInAwaitingIsFatal := by
  unfold Obligations.NonEmptyBufferInAwaitingIsFatal
  intro p f s hframe hpid hfatal hstate hbuf
  refine exec_accept_fatal (c := .invariantViolation) hframe hfatal ?_
  rw [routePacket_of_awaiting hpid hstate, awaitingStart_of_nonEmpty (v := s.counted _) hbuf]

/-- Settles O36: whether the section was complete or the counter wrong, the re-offered packet finds a cleared accumulator,
and what was counted and reported before stands. -/
theorem reofferPastTheBoundKeepsTheRecords : Obligations.ReofferPastTheBoundKeepsTheRecords := by
  unfold Obligations.ReofferPastTheBoundKeepsTheRecords
  intro p f prev m s hframe hpid hfatal hstate hpusi hmax hlong
  simp only [ofNat_cc_succ, ← cc_eq_succ_iff, ne_eq]
  have hr := routePacket_routed s f
  have hexec := exec_accept_of_framed hframe hfatal
  by_cases hcc : f.cc = prev + 1
  · have hroute := routePacket_of_completes hpid hstate hcc hpusi
    rw [awaitingStart_of_tooLong (State.completed_buf ..) hpusi (overflows_eq_true hmax hlong)] at hroute
    rw [hroute] at hr hexec
    obtain ⟨hset, hcause, hreserved⟩ := setFatal_spec (v := s.completed f) hfatal .bufferOverflow
    refine ⟨_, hexec, hset, hcause, hreserved, by simp [State.completed, Accum.idle], fun _ => ⟨?_, ?_⟩,
      fun hne => absurd hcc hne, hr.seenBit_own hpid, fun q hq => hr.others hq, ?_⟩
    all_goals
      rw [State.setFatal_frame]
      rfl
  · have hroute := routePacket_of_wrongCounter hpid hstate hcc
    rw [awaitingStart_of_tooLong (State.broken_buf ..) hpusi (overflows_eq_true hmax hlong)] at hroute
    rw [hroute] at hr hexec
    obtain ⟨hset, hcause, hreserved⟩ := setFatal_spec (v := s.broken prev f) hfatal .bufferOverflow
    obtain ⟨htables, hbroadcast⟩ := ccError_records s f prev
    have hevt : (((s.broken prev f).setFatal .bufferOverflow).raise .fatal).evt = (s.broken prev f).evt := by simp
    refine ⟨_, hexec, hset, hcause, hreserved, by simp [State.broken, Accum.idle], fun heq => absurd heq hcc,
      fun _ => ⟨fun h => hevt.trans (htables h), fun h => hevt.trans (hbroadcast h), ?_⟩, hr.seenBit_own hpid,
      fun q hq => hr.others hq, ?_⟩
    all_goals
      rw [State.setFatal_frame]
      rfl

/-! ### The packet forms -/

section Pointer

variable {h : TsHeader} {a : Bool} {body : Bytes 184} {k : Nat}

/-- R85: a pointer byte that is there and whose tail fits. -/
theorem framePointer_of_fits {ptr : Byte} (hptr : body.data[k]? = some ptr) (hfits : k + 1 + ptr.toNat ≤ 184) :
    framePointer h a body k = .ok (formRecord h true a (body.data.drop (k + 1 + ptr.toNat))
      (tailOf ptr.toNat ((body.data.drop (k + 1)).take ptr.toNat))) := by
  have hk : k < 184 := by omega
  rw [getElem?_eq_get body hk] at hptr
  cases hptr
  rw [framePointer, dif_pos hk]
  exact if_neg (Nat.not_lt.2 hfits)

/-- R85: the same of a body in its parts: what stands before the pointer byte, the pointer byte, the tail and the rest. -/
theorem framePointer_of_parts {ptr : Byte} {before after : List Byte} (hbody : body.data = before ++ ptr :: after)
    (hptr : ptr.toNat ≤ after.length) :
    framePointer h a body before.length =
      .ok (formRecord h true a (after.drop ptr.toNat) (tailOf ptr.toNat (after.take ptr.toNat))) := by
  have hsize := body.size
  rw [hbody, List.length_append, List.length_cons] at hsize
  have hget : body.data[before.length]? = some ptr := by
    rw [hbody, List.getElem?_append_right (Nat.le_refl _), Nat.sub_self]
    rfl
  rw [framePointer_of_fits hget (by omega), hbody, Nat.add_assoc, List.drop_length_add_append, List.drop_length_add_append,
    Nat.add_comm 1, List.drop_succ_cons]
  rfl

/-- R108, R109: a pointer byte past the end, or a tail that does not fit. -/
theorem framePointer_of_not_fits (hbad : ∀ ptr, body.data[k]? = some ptr → 184 < k + 1 + ptr.toNat) :
    framePointer h a body k = .error .offsetOutOfRange := by
  unfold framePointer
  split
  · next hk => exact if_pos (hbad _ (getElem?_eq_get body hk))
  · rfl

end Pointer

theorem get_zero_of_cons {n : Nat} {body : Bytes n} {b : Byte} {l : List Byte} (h : body.data = b :: l) (hn : 0 < n) :
    body.get 0 hn = b := Bytes.get_of_data_eq h 0 hn (by simp)

/-- Settles O39: both forms are framed, with the bytes appended as the main payload. -/
theorem formsWithoutUnitStartAppend : Obligations.FormsWithoutUnitStartAppend := by
  unfold Obligations.FormsWithoutUnitStartAppend
  intro h b4 more body prev s hbody hpid hfatal hmax hstate hcc i main hform
  have hframing : ∃ a, framing i = some (.ok (formRecord h false a main none)) := by
    obtain ⟨rfl, rfl⟩ | ⟨rfl, hlen, rfl⟩ := hform
    · exact ⟨false, rfl⟩
    · refine ⟨true, congrArg some ?_⟩
      simp only [frameAdaptation, get_zero_of_cons hbody, hbody, Nat.not_lt.2 hlen, ↓reduceIte,
        Nat.add_comm 1, List.drop_succ_cons]
  obtain ⟨a, hframing⟩ := hframing
  refine ⟨_, exec_of_framing hframing s, ?_⟩
  rw [acceptFramed_appends hfatal hpid hstate ((cc_eq_succ_iff ..).2 hcc) rfl (overflows_of_unbounded hmax _)]
  exact stored_setAccum s h.pid.toNat _

/-- Settles O40: both forms are framed, with the bytes behind the tail as the main payload. -/
theorem formsWithUnitStartStart : Obligations.FormsWithUnitStartStart := by
  unfold Obligations.FormsWithUnitStartStart
  intro h len ptr field after body s hpid hfatal hmax hstate hbuf hptr i hform
  have hframing : ∃ a trailing, framing i = some (.ok (formRecord h true a (after.drop ptr.toNat) trailing)) := by
    obtain ⟨rfl, hbody⟩ | ⟨rfl, hbody, hfield⟩ := hform
    · exact ⟨_, _, congrArg some (framePointer_of_parts (before := []) hbody hptr)⟩
    · have hframe := framePointer_of_parts (h := h) (a := true) (before := len :: field) hbody hptr
      rw [List.length_cons, hfield, Nat.add_comm, ← get_zero_of_cons hbody (by decide)] at hframe
      exact ⟨_, _, congrArg some hframe⟩
  obtain ⟨a, trailing, hframing⟩ := hframing
  refine ⟨_, exec_of_framing hframing s, ?_⟩
  rw [acceptFramed_starts hfatal hpid hstate hbuf rfl (overflows_of_unbounded hmax _), ← List.length_drop]
  exact stored_setAccum s h.pid.toNat _

/-- Settles O41: each of the forms is framed with the error that is answered. -/
theorem illegalPacketsAreRejected : Obligations.IllegalPacketsAreRejected := by
  unfold Obligations.IllegalPacketsAreRejected
  intro low7 rest bad h b4 more body s hfatal hbody
  have rejected {i : Instr} {e : Status} (hi : framing i = some (.error e)) :
      exec i s = .next { s with rsp := s.rsp ++ [⟨e, []⟩] } := by
    rw [exec_of_framing hi, acceptFramed_error hfatal]
    rfl
  have hget := get_zero_of_cons hbody (by decide)
  refine ⟨rejected rfl, rejected rfl, fun hlen => ⟨rejected (congrArg some ?_), rejected (congrArg some ?_)⟩,
    fun hbad => rejected (congrArg some ?_)⟩
  · simp only [frameAdaptation, hget]
    exact if_pos hlen
  · refine framePointer_of_not_fits fun ptr hptr => ?_
    rw [hbody] at hptr
    cases hptr
    omega
  · refine framePointer_of_not_fits fun ptr hptr => ?_
    rw [hget] at hptr ⊢
    rw [hbody, Nat.add_comm 1, List.getElem?_cons_succ] at hptr
    obtain hlen | ⟨ptr', hptr', hlong⟩ := hbad
    · omega
    · rw [hptr] at hptr'
      cases hptr'
      omega

end Sys2Proof.Machine
end

section
/-!
PROOFS. Several packets one after the other: a stream that is counted (42_demultiplexer.md R142), a packet presented twice
(41_section_accumulator.md R130), and reassembly (R127, R136).
-/

namespace Sys2Proof.Machine

open Sys2Proof.Config

theorem acceptAll_cons_of_exec {p : Bytes 188} {s t : State} (h : exec (.accept p) s = .next t) (ps : List (Bytes 188)) :
    acceptAll (p :: ps) s = acceptAll ps t := by
  simp only [acceptAll, h]

/-! ### A stream that is counted -/

/-- R142: with no fault, ACCEPT of a framed packet counts it. -/
theorem exec_accept_counts {p : Bytes 188} {f : Framed} {s : State} (hframe : frame p = .ok f)
    (hfatal : s.fatal = false) :
    ∃ t, exec (.accept p) s = .next t ∧ t.totalPackets = wrap s.params (s.totalPackets + 1) :=
  ⟨_, exec_accept_of_framed hframe hfatal, (routePacket_routed s f).totalPackets⟩

/-- Settles O53: by induction on the stream; each ACCEPT counts its packet and keeps what the next one needs. -/
theorem streamOfFramedPacketsIsCounted : Obligations.StreamOfFramedPacketsIsCounted := by
  unfold Obligations.StreamOfFramedPacketsIsCounted
  intro ps
  induction ps with
  | nil =>
    rintro s _ _ _ ⟨hpackets, _⟩ _
    exact ⟨s, rfl, (Nat.mod_eq_of_lt hpackets).symm⟩
  | cons p ps ih =>
    intro s hmax hfault hok hsizes hframes
    obtain ⟨f, hframe⟩ := hframes p List.mem_cons_self
    obtain ⟨t, ht, hcount⟩ := exec_accept_counts hframe hfault
    obtain ⟨hmax', hfault', hok'⟩ := unboundedOk_kept.exec ht ⟨hmax, hfault, hok⟩
    obtain ⟨u, hu, htotal⟩ := ih t hmax' hfault' hok' (sizesFit_kept.exec ht hsizes)
      fun q hq => hframes q (List.mem_cons_of_mem _ hq)
    refine ⟨u, (acceptAll_cons_of_exec ht ps).trans hu, ?_⟩
    have hparams : t.params = s.params := (params_kept s.params).exec ht rfl
    rw [htotal, hcount, hparams, wrap, Nat.mod_add_mod, List.length_cons]
    congr 1
    omega

/-! ### A packet presented twice -/

theorem Reoffered.accumulating_cc {v t : State} {f : Framed} {st : Status} {prev : BitVec 4} (h : Reoffered v f t st)
    (hv : (v.accum f.pid.toNat).state = .awaitingStart) (ht : (t.accum f.pid.toNat).state = .accumulating prev) :
    prev = f.cc := by
  obtain hsame | ⟨_, _, hstarted⟩ := h.accum_cases f.pid.toNat
  · rw [hsame, hv] at ht; cases ht
  · rw [hstarted] at ht; cases ht; rfl

/-- R122, R125, R128: with no bound, a packet that leaves its PID accumulating leaves its counter as the previous one, and
no fault. -/
theorem Routed.accumulating_cc {s t : State} {f : Framed} {st : Status} {prev : BitVec 4} (h : Routed s f t st)
    (hpid : f.pid ≠ NULL_PID) (hmax : s.params.sectionBufMax = none)
    (ht : (t.accum f.pid.toNat).state = .accumulating prev) : prev = f.cc ∧ t.status = s.status := by
  cases h with
  | null hnull => exact absurd hnull hpid
  | broken _ hstate => rw [State.setFatal_accum, State.counted_accum, hstate] at ht; cases ht
  | awaiting _ _ _ hstate _ hr =>
    exact ⟨hr.accumulating_cc hstate ht, (hr.ok_of_unbounded hmax).2⟩
  | wrongCounter _ _ _ _ _ _ hr =>
    exact ⟨hr.accumulating_cc (by simp [Accum.idle]) ht, (hr.ok_of_unbounded hmax).2⟩
  | completed _ _ _ _ _ _ _ hr =>
    exact ⟨hr.accumulating_cc (by simp [Accum.idle]) ht, (hr.ok_of_unbounded hmax).2⟩
  | appended =>
    rw [State.setAccum_accum, if_pos rfl] at ht
    cases ht
    exact ⟨rfl, rfl⟩
  | appendTooLong _ _ _ _ _ hlong => rw [overflows_of_unbounded hmax] at hlong; cases hlong

theorem cc_ne_succ (c : BitVec 4) : c ≠ c + 1 := by revert c; decide

/-- Settles O56: the counter the first time leaves is the packet's own, which does not follow itself. -/
theorem repeatedPacketIsAContinuityError : Obligations.RepeatedPacketIsAContinuityError := by
  unfold Obligations.RepeatedPacketIsAContinuityError
  intro p f prev s t hframe hpid hmax hfault ht hstate
  rw [exec_accept_of_framed hframe hfault] at ht
  cases ht
  have hfirst := routePacket_routed s f
  obtain ⟨rfl, hstatus⟩ := hfirst.accumulating_cc hpid hmax hstate
  refine ⟨hfirst.totalPackets, ?_⟩
  generalize hu : (routePacket s f).1.raise (routePacket s f).2 = u at hstate
  have hfatal : u.fatal = false := by
    rw [← hu, State.raise_fatal, State.fatal, hstatus]
    exact hfault
  have hparams : u.params = s.params := by rw [← hu, State.raise_params, hfirst.params]
  have hsecond := routePacket_routed u f
  have hroute := routePacket_of_wrongCounter hpid hstate (cc_ne_succ f.cc)
  obtain ⟨acc, status, hwritten⟩ := (awaitingStart_reoffered (State.broken_buf u f.cc f)).frame
  refine ⟨_, exec_accept_of_framed hframe hfatal, ?_, ?_, ?_⟩
  · rw [State.raise_totalPackets, hsecond.totalPackets, hparams]
    rfl
  · rw [State.raise_totalCcErrors, hroute, hwritten, ← hparams]
    rfl
  · rw [State.raise_evt, hroute, hwritten]
    rfl

/-! ### Reassembly -/

/-- What packets that emit nothing and meet no fault leave: everything a dispatch depends on, STATUS, the error count and
EVT. -/
structure Undisturbed (s t : State) : Prop where
  params : t.params = s.params
  obs : t.obs = s.obs
  handlers : t.handlers = s.handlers
  status : t.status = s.status
  errors : t.totalCcErrors = s.totalCcErrors
  evt : t.evt = s.evt

theorem Undisturbed.trans {s t u : State} (h : Undisturbed s t) (h' : Undisturbed t u) : Undisturbed s u :=
  ⟨h'.params.trans h.params, h'.obs.trans h.obs, h'.handlers.trans h.handlers, h'.status.trans h.status,
    h'.errors.trans h.errors, h'.evt.trans h.evt⟩

theorem Undisturbed.fatal {s t : State} (h : Undisturbed s t) : t.fatal = s.fatal := congrArg (·.getLsbD 0) h.status

theorem Undisturbed.tableRecords {s t : State} (h : Undisturbed s t) (p : BitVec 13) (e : Event) :
    tableRecords t p e = tableRecords s p e := tableRecords_congr h.obs h.handlers p e

theorem undisturbed_setAccum (s : State) (p : Nat) (a : Accum) (st : Status) :
    Undisturbed s (((s.counted p).setAccum p a).raise st) := ⟨rfl, rfl, rfl, rfl, rfl, rfl⟩

/-- PID `p` is accumulating, the last counter `cc` and the bytes `buf` so far. -/
def Collecting (s : State) (p : Nat) (cc : BitVec 4) (buf : List Byte) : Prop :=
  (s.accum p).state = .accumulating cc ∧ (s.accum p).buf = buf

theorem collecting_setAccum {s : State} {p : Nat} {a : Accum} {cc : BitVec 4} {buf : List Byte} {st : Status}
    (hstate : a.state = .accumulating cc) (hbuf : a.buf = buf) :
    Collecting (((s.counted p).setAccum p a).raise st) p cc buf := by
  simp [Collecting, hstate, hbuf]

/-- R125: one packet more of the section in progress. -/
theorem exec_accept_continues {p : Bytes 188} {m : Framed} {cc : BitVec 4} {buf : List Byte} {s : State}
    (hmax : s.params.sectionBufMax = none) (hfatal : s.fatal = false) (hpid : m.pid ≠ NULL_PID)
    (hcoll : Collecting s m.pid.toNat cc buf) (hframe : frame p = .ok m) (hpusi : m.pusi = false) (hcc : m.cc = cc + 1) :
    ∃ t, exec (.accept p) s = .next t ∧ Undisturbed s t ∧ Collecting t m.pid.toNat m.cc (buf ++ m.main) := by
  obtain ⟨hstate, rfl⟩ := hcoll
  refine ⟨_, exec_accept hframe s, ?_⟩
  rw [acceptFramed_appends hfatal hpid hstate hcc hpusi (overflows_of_unbounded hmax _)]
  exact ⟨undisturbed_setAccum .., collecting_setAccum rfl rfl⟩

theorem mod_sixteen_step {c m n k : Nat} (h : m = (c + 1) % 16) (hn : n = (c + (k + 1) + 1) % 16) :
    n = (m + k + 1) % 16 := by omega

/-- R127: the packets between the two with unit-start, by induction on them. -/
theorem acceptAll_middle {pid : BitVec 13} (hpid : pid ≠ NULL_PID) (middle : List (Bytes 188)) (ms : List Framed)
    {cc : BitVec 4} {buf : List Byte} {s : State} (hmax : s.params.sectionBufMax = none) (hfatal : s.fatal = false)
    (hcoll : Collecting s pid.toNat cc buf) (hlen : middle.length = ms.length)
    (hms : ∀ k m p, ms[k]? = some m → middle[k]? = some p → frame p = .ok m ∧ m.pusi = false ∧ m.pid = pid ∧
      m.cc.toNat = (cc.toNat + k + 1) % 16) (rest : List (Bytes 188)) :
    ∃ t cc', acceptAll (middle ++ rest) s = acceptAll rest t ∧ Undisturbed s t ∧
      cc'.toNat = (cc.toNat + ms.length) % 16 ∧
      Collecting t pid.toNat cc' (buf ++ (ms.map Framed.main).flatten) := by
  induction middle generalizing ms cc buf s with
  | nil =>
    obtain rfl := List.length_eq_zero_iff.1 hlen.symm
    exact ⟨s, cc, rfl, ⟨rfl, rfl, rfl, rfl, rfl, rfl⟩, (Nat.mod_eq_of_lt cc.isLt).symm, by simpa using hcoll⟩
  | cons p middle ih =>
    obtain ⟨m, ms, rfl⟩ := List.exists_cons_of_length_eq_add_one hlen.symm
    obtain ⟨hframe, hpusi, rfl, hcc⟩ := hms 0 m p rfl rfl
    obtain ⟨t, ht, hst, hcoll'⟩ :=
      exec_accept_continues hmax hfatal hpid hcoll hframe hpusi ((cc_eq_succ_iff ..).2 hcc)
    have hms' (k : Nat) (m' : Framed) (q : Bytes 188) (hm : ms[k]? = some m') (hq : middle[k]? = some q) :
        frame q = .ok m' ∧ m'.pusi = false ∧ m'.pid = m.pid ∧ m'.cc.toNat = (m.cc.toNat + k + 1) % 16 := by
      obtain ⟨hframe', hpusi', hpid', hcc'⟩ := hms (k + 1) m' q hm hq
      exact ⟨hframe', hpusi', hpid', mod_sixteen_step hcc hcc'⟩
    obtain ⟨u, cc', hu, htu, hcc', hcollU⟩ :=
      ih ms (by rw [hst.params, hmax]) (hst.fatal.trans hfatal) hcoll' (Nat.succ.inj hlen) hms'
    refine ⟨u, cc', (acceptAll_cons_of_exec ht _).trans hu, hst.trans htu, ?_, ?_⟩
    · rw [hcc', List.length_cons]
      omega
    · simpa using hcollU

/-- Settles O60: the first packet starts the section, those between are appended, and the last completes it. -/
theorem inOrderPacketsReassemble : Obligations.InOrderPacketsReassemble := by
  unfold Obligations.InOrderPacketsReassemble
  intro first last middle f l ms s hmax hfault hpid hidle hfirst hpusi hlast hpusiL hpidL hccL hlen hms
  have hstart := exec_accept hfirst s
  rw [acceptFramed_starts hfault hpid (congrArg Accum.state hidle) (congrArg Accum.buf hidle) hpusi
    (overflows_of_unbounded hmax _)] at hstart
  have hstarted := undisturbed_setAccum s f.pid.toNat (startedAccum s.params f) .ok
  obtain ⟨t, cc, hmiddle, hmid, hcc, hstate, hbuf⟩ :=
    acceptAll_middle hpid middle ms (by rw [hstarted.params, hmax]) (hstarted.fatal.trans hfault)
      (collecting_setAccum rfl rfl) hlen hms [last]
  have hst := hstarted.trans hmid
  rw [← hpidL] at hstate hbuf hpid
  have hccL' : l.cc = cc + 1 := (cc_eq_succ_iff ..).2 (by omega)
  have hroute := routePacket_of_completes hpid hstate hccL' hpusiL
  have hbound : overflows (t.completed l).params l.main.length = false :=
    overflows_of_unbounded (hst.params ▸ hmax) _
  rw [awaitingStart_of_starts (State.completed_buf ..) hpusiL hbound] at hroute
  have hend := exec_accept_of_framed hlast (hst.fatal.trans hfault)
  rw [hroute] at hend
  have haccum : ((((t.completed l).setAccum l.pid.toNat (startedAccum t.params l)).raise .ok).accum l.pid.toNat) =
      startedAccum t.params l := by
    rw [State.raise_accum, State.setAccum_accum, if_pos rfl]
  refine ⟨_, ((acceptAll_cons_of_exec hstart _).trans hmiddle).trans (acceptAll_cons_of_exec hend []), hst.errors, ?_,
    ?_, ?_⟩
  · calc (t.completed l).evt
        = t.evt ++ tableRecords t l.pid (.sectionComplete ((t.accum l.pid.toNat).buf ++ l.tail)) :=
          State.completed_evt t l
      _ = _ := by rw [hst.evt, hst.tableRecords, hbuf, hpidL]; rfl
  · rw [← hpidL]
    exact congrArg Accum.buf haccum
  · rw [← hpidL]
    exact congrArg Accum.state haccum

end Sys2Proof.Machine
end

section
/-!
PROOFS. 10_state.md R28, R39: what the block never reads. A relation between states that every operation keeps, of states
with the same registers to read, is kept by every instruction; what an output channel holds, and what is seen, are such
relations.
-/

namespace Sys2Proof.Machine

open Sys2Proof.Config

/-- What the meanings read of a state. -/
def SameReads (s s' : State) : Prop :=
  s'.params = s.params ∧ s'.acc = s.acc ∧ s'.handlers = s.handlers ∧ s'.obs = s.obs ∧
    s'.totalPackets = s.totalPackets ∧ s'.totalCcErrors = s.totalCcErrors ∧ s'.status = s.status

/-- `R` relates states a meaning cannot tell apart, and every operation of the meanings keeps it. -/
structure Indistinguishable (R : State → State → Prop) : Prop where
  reads : ∀ {s s' : State}, R s s' → SameReads s s'
  countPacket : ∀ {s s' : State}, R s s' → R s.countPacket s'.countPacket
  countCcError : ∀ {s s' : State}, R s s' → R s.countCcError s'.countCcError
  setSeen : ∀ {s s' : State} (p : Nat), R s s' → R (s.setSeen p) (s'.setSeen p)
  setAccum : ∀ {s s' : State} (p : Nat) (a : Accum), R s s' → R (s.setAccum p a) (s'.setAccum p a)
  setSlot : ∀ {s s' : State} (p : Nat) (h : HandlerSlot), R s s' → R (s.setSlot p h) (s'.setSlot p h)
  setStatus : ∀ {s s' : State} (v : BitVec 8), R s s' → R { s with status := v } { s' with status := v }
  setObs : ∀ {s s' : State} (o : List (BitVec 16)), R s s' → R { s with obs := o } { s' with obs := o }
  emit : ∀ {s s' : State} (rs : List EvtRecord), R s s' → R (s.emit rs) (s'.emit rs)
  respond : ∀ {s s' : State} (st : Status) (data : List Byte), R s s' → R (s.respond st data) (s'.respond st data)
  resetRegisters : ∀ {s s' : State}, R s s' → R s.resetRegisters s'.resetRegisters
  takeWord : ∀ {s s' : State} (rest : List Byte), R s s' → R (s.takeWord rest) (s'.takeWord rest)

namespace Indistinguishable

variable {R : State → State → Prop} (hR : Indistinguishable R) {s s' : State} (h : R s s')
include hR h

theorem accum (q : Nat) : s'.accum q = s.accum q := by
  obtain ⟨_, hacc, _⟩ := hR.reads h
  exact State.accum_congr hacc q

theorem slot (q : Nat) : s'.slot q = s.slot q := by
  obtain ⟨_, _, hhandlers, _⟩ := hR.reads h
  exact State.slot_congr hhandlers q

theorem params : s'.params = s.params := (hR.reads h).1

theorem fatal : s'.fatal = s.fatal := by
  obtain ⟨_, _, _, _, _, _, hstatus⟩ := hR.reads h
  exact congrArg (·.getLsbD 0) hstatus

theorem dispatch (p : BitVec 13) (e : Event) : R (s.dispatch p e) (s'.dispatch p e) := by
  obtain ⟨hparams, _, hhandlers, hobs, _⟩ := hR.reads h
  rw [State.dispatch, State.dispatch, dispatchRecords_congr hparams hobs hhandlers]
  exact hR.emit _ h

theorem setFatal (c : FatalCause) : R (s.setFatal c) (s'.setFatal c) := by
  obtain ⟨_, _, _, _, _, _, hstatus⟩ := hR.reads h
  rw [State.setFatal_frame s, State.setFatal_frame s', State.setFatal_status_congr hstatus]
  exact hR.setStatus _ h

theorem raise (st : Status) : R (s.raise st) (s'.raise st) := hR.respond st [] h

theorem awaitingStart (p : Nat) (f : Framed) :
    R (awaitingStart s p f).1 (awaitingStart s' p f).1 ∧ (Machine.awaitingStart s' p f).2 = (awaitingStart s p f).2 := by
  unfold Machine.awaitingStart
  rw [hR.accum h, hR.params h]
  split
  · exact ⟨hR.setFatal h _, rfl⟩
  split
  · split
    · exact ⟨hR.setFatal h _, rfl⟩
    · exact ⟨hR.setAccum _ _ h, rfl⟩
  · exact ⟨h, rfl⟩

theorem appendPacket (f : Framed) :
    R (appendPacket s f).1 (appendPacket s' f).1 ∧ (Machine.appendPacket s' f).2 = (appendPacket s f).2 := by
  simp only [Machine.appendPacket, hR.accum h, hR.params h]
  split
  · exact ⟨hR.setFatal h _, rfl⟩
  · exact ⟨hR.setAccum _ _ h, rfl⟩

theorem accStep (f : Framed) :
    R (accStep s f).1 (accStep s' f).1 ∧ (Machine.accStep s' f).2 = (accStep s f).2 := by
  unfold Machine.accStep
  rw [hR.accum h]
  split
  · exact hR.awaitingStart h _ f
  · split
    · exact hR.awaitingStart (hR.setAccum _ _ (hR.dispatch (hR.countCcError h) ..)) _ f
    split
    · unfold completeSection
      rw [hR.accum h]
      exact hR.awaitingStart (hR.setAccum _ _ (hR.dispatch h ..)) _ f
    · exact hR.appendPacket h f

theorem routePacket (f : Framed) :
    R (routePacket s f).1 (routePacket s' f).1 ∧ (Machine.routePacket s' f).2 = (routePacket s f).2 := by
  unfold Machine.routePacket
  split
  · exact ⟨hR.countPacket h, rfl⟩
  · exact hR.accStep (hR.setSeen _ (hR.countPacket h)) f

theorem acceptFramed (r : Except Status Framed) : R (acceptFramed s r) (acceptFramed s' r) := by
  unfold Machine.acceptFramed
  rw [hR.fatal h]
  split
  · exact hR.raise h _
  · cases r with
    | error e => exact hR.raise h e
    | ok f =>
      obtain ⟨hroute, hst⟩ := hR.routePacket h f
      dsimp only
      rw [hst]
      exact hR.raise hroute _

theorem parseAnswer (pid16 : BitVec 16) (r : Except Status Header) :
    R (parseAnswer s pid16 r) (parseAnswer s' pid16 r) := by
  unfold Machine.parseAnswer
  split
  · exact hR.raise h _
  · cases r with
    | error e => exact hR.raise h e
    | ok hd => exact hR.respond _ _ h

theorem getAnswer (pid16 : BitVec 16) (sec : List Byte) (field : Header → Option (BitVec 16)) :
    R (getAnswer s pid16 sec field) (getAnswer s' pid16 sec field) := by
  unfold Machine.getAnswer
  split
  · exact hR.raise h _
  · cases hdr sec with
    | error e => exact hR.raise h e
    | ok hd =>
      dsimp only
      cases field hd with
      | none => exact hR.raise h _
      | some v => exact hR.respond _ _ h

theorem readAnswer (v : Option Nat) : R (readAnswer s v) (readAnswer s' v) := by
  cases v with
  | none => exact hR.raise h _
  | some v => exact hR.respond _ _ h

theorem csr (n8 : Byte) : s'.csr n8 = s.csr n8 := by
  obtain ⟨_, _, _, _, hpackets, herrors, hstatus⟩ := hR.reads h
  simp only [State.csr, hpackets, herrors, hstatus]

/-- Every instruction keeps the relation. -/
theorem exec (i : Instr) : ∃ t t', exec i s = .next t ∧ Machine.exec i s' = .next t' ∧ R t t' := by
  cases hf : framing i with
  | some r => exact ⟨_, _, exec_of_framing hf s, exec_of_framing hf s', hR.acceptFramed h r⟩
  | none =>
    cases i with
    | registerHandler pid16 h16 =>
      refine ⟨_, _, rfl, rfl, ?_⟩
      rw [hR.fatal h, hR.params h]
      split
      · exact hR.raise h _
      split
      · exact hR.raise h _
      · exact hR.raise (hR.setSlot _ _ h) _
    | unregisterHandler pid16 =>
      refine ⟨_, _, rfl, rfl, ?_⟩
      rw [hR.fatal h, hR.slot h]
      split
      · exact hR.raise h _
      split
      · exact hR.raise h _
      · exact hR.raise (hR.setSlot _ _ h) _
    | addObserver o16 =>
      obtain ⟨_, _, _, hobs, _⟩ := hR.reads h
      have hid : identifier s'.params o16 = identifier s.params o16 := by rw [hR.params h]
      have hmax : s'.params.nObsMax = s.params.nObsMax := by rw [hR.params h]
      refine ⟨_, _, rfl, rfl, ?_⟩
      rw [hR.fatal h, hid, hmax, hobs]
      split
      · exact hR.raise h _
      split
      · exact hR.raise h _
      · exact hR.raise (hR.setObs _ h) _
    | readCsr n8 =>
      refine ⟨_, _, rfl, rfl, ?_⟩
      rw [hR.csr h]
      exact hR.readAnswer h _
    | readAcc pid16 sel8 =>
      refine ⟨_, _, rfl, rfl, ?_⟩
      rw [hR.accum h]
      split
      · exact hR.raise h _
      · exact hR.readAnswer h _
    | sechdrParse | shLong | shShort => exact ⟨_, _, rfl, rfl, hR.parseAnswer h ..⟩
    | reset => exact ⟨_, _, rfl, rfl, hR.raise (hR.resetRegisters h) _⟩
    | accept | tsTei | tsP | tsAp | tsSp | tsAsp | tsBadsync => cases hf
    | _ => exact ⟨_, _, rfl, rfl, hR.getAnswer h ..⟩

end Indistinguishable

/-- A step keeps the relation if it holds once the failure reports are logged, and CMD holds the same. -/
theorem Indistinguishable.step {R : State → State → Prop} (hR : Indistinguishable R) {s s' : State}
    (hlog : R s.logFailures s'.logFailures) (hcmd : s'.cmd = s.cmd) :
    ∃ t t', step s = .next t ∧ Machine.step s' = .next t' ∧ R t t' := by
  unfold Machine.step fetch
  rw [hcmd]
  cases decode s.cmd with
  | incomplete => exact ⟨_, _, rfl, rfl, hlog⟩
  | badCommand rest => exact ⟨_, _, rfl, rfl, hR.raise (hR.takeWord rest hlog) _⟩
  | badSelector rest => exact ⟨_, _, rfl, rfl, hR.raise (hR.takeWord rest hlog) _⟩
  | instr i rest => exact hR.exec (hR.takeWord rest hlog) i

/-! ### The seen bits -/

/-- Differing in the seen bits alone. -/
def SeenApart (s s' : State) : Prop := ∃ seen, s' = { s with seen := seen }

theorem seenApart_indistinguishable : Indistinguishable SeenApart where
  reads := by rintro s _ ⟨_, rfl⟩; exact ⟨rfl, rfl, rfl, rfl, rfl, rfl, rfl⟩
  countPacket := by rintro s _ ⟨_, rfl⟩; exact ⟨_, rfl⟩
  countCcError := by rintro s _ ⟨_, rfl⟩; exact ⟨_, rfl⟩
  setSeen := by rintro s _ p ⟨_, rfl⟩; exact ⟨_, rfl⟩
  setAccum := by rintro s _ p a ⟨_, rfl⟩; exact ⟨_, rfl⟩
  setSlot := by rintro s _ p h ⟨_, rfl⟩; exact ⟨_, rfl⟩
  setStatus := by rintro s _ v ⟨_, rfl⟩; exact ⟨_, rfl⟩
  setObs := by rintro s _ o ⟨_, rfl⟩; exact ⟨_, rfl⟩
  emit := by rintro s _ rs ⟨_, rfl⟩; exact ⟨_, rfl⟩
  respond := by rintro s _ st data ⟨_, rfl⟩; exact ⟨_, rfl⟩
  resetRegisters := by rintro s _ ⟨_, rfl⟩; exact ⟨_, rfl⟩
  takeWord := by rintro s _ rest ⟨_, rfl⟩; exact ⟨_, rfl⟩

/-- Settles O59: no step tells states apart by their seen bits. -/
theorem seenIsUnobservable : Obligations.SeenIsUnobservable := by
  unfold Obligations.SeenIsUnobservable
  intro s t seen ht
  obtain ⟨u, _, hu, hu', seen', rfl⟩ :=
    seenApart_indistinguishable.step (s := s) (s' := { s with seen := seen }) ⟨seen, rfl⟩ rfl
  rw [hu] at ht
  cases ht
  exact ⟨seen', hu'⟩

/-! ### The output channels -/

/-- `s` and `s'` have put out the same behind the given histories, and differ in nothing else. -/
def OutputsApart (rsp rsp' : List Response) (evt evt' : List EvtRecord) (log log' : List LogEntry)
    (s s' : State) : Prop :=
  ∃ c : State, s = { c with rsp := rsp ++ c.rsp, evt := evt ++ c.evt, log := log ++ c.log } ∧
    s' = { c with rsp := rsp' ++ c.rsp, evt := evt' ++ c.evt, log := log' ++ c.log }

theorem outputsApart_indistinguishable (rsp rsp' : List Response) (evt evt' : List EvtRecord)
    (log log' : List LogEntry) : Indistinguishable (OutputsApart rsp rsp' evt evt' log log') where
  reads := by rintro _ _ ⟨c, rfl, rfl⟩; exact ⟨rfl, rfl, rfl, rfl, rfl, rfl, rfl⟩
  countPacket := by rintro _ _ ⟨c, rfl, rfl⟩; exact ⟨c.countPacket, rfl, rfl⟩
  countCcError := by rintro _ _ ⟨c, rfl, rfl⟩; exact ⟨c.countCcError, rfl, rfl⟩
  setSeen := by rintro _ _ p ⟨c, rfl, rfl⟩; exact ⟨c.setSeen p, rfl, rfl⟩
  setAccum := by rintro _ _ p a ⟨c, rfl, rfl⟩; exact ⟨c.setAccum p a, rfl, rfl⟩
  setSlot := by rintro _ _ p h ⟨c, rfl, rfl⟩; exact ⟨c.setSlot p h, rfl, rfl⟩
  setStatus := by rintro _ _ v ⟨c, rfl, rfl⟩; exact ⟨{ c with status := v }, rfl, rfl⟩
  setObs := by rintro _ _ o ⟨c, rfl, rfl⟩; exact ⟨{ c with obs := o }, rfl, rfl⟩
  emit := by
    rintro _ _ rs ⟨c, rfl, rfl⟩
    exact ⟨c.emit rs, by simp [State.emit], by simp [State.emit]⟩
  respond := by
    rintro _ _ st data ⟨c, rfl, rfl⟩
    exact ⟨c.respond st data, by simp [State.respond], by simp [State.respond]⟩
  resetRegisters := by rintro _ _ ⟨c, rfl, rfl⟩; exact ⟨c.resetRegisters, rfl, rfl⟩
  takeWord := by rintro _ _ rest ⟨c, rfl, rfl⟩; exact ⟨c.takeWord rest, rfl, rfl⟩

/-- Settles O58: no step tells states apart by what they have put out or by the failure reports, and what it logs are the
reports alone. -/
theorem outputsAndFailuresAreNeverReadBack : Obligations.OutputsAndFailuresAreNeverReadBack := by
  unfold Obligations.OutputsAndFailuresAreNeverReadBack
  intro s t rsp evt log failures ht
  have hstart : OutputsApart s.rsp rsp s.evt evt (s.log ++ s.evtFailures.map logEntryOf) (log ++ failures.map logEntryOf)
      s.logFailures { s with rsp := rsp, evt := evt, log := log, evtFailures := failures }.logFailures :=
    ⟨{ s.logFailures with rsp := [], evt := [], log := [] }, by simp [State.logFailures], by simp [State.logFailures]⟩
  obtain ⟨u, u', hu, hu', c, rfl, rfl⟩ := (outputsApart_indistinguishable ..).step hstart rfl
  rw [hu] at ht
  cases ht
  obtain ⟨v, _, hv, _, _, _, hlog, hfailures⟩ := oneResponsePerCommand s
  rw [hu] at hv
  cases hv
  have hnone : c.log = [] := List.append_right_eq_self.1 hlog
  have hfailures' : c.evtFailures = [] := hfailures
  rw [hu']
  simp [hnone, hfailures']

end Sys2Proof.Machine
end

section
/-!
PROOFS. 42_demultiplexer.md R150 to R152, 44_host_commands.md R181 to R184, and the operand and fatal checks of
60_exceptions.md R228 and R229: the commands that are no ACCEPT.
-/

namespace Sys2Proof.Machine

open Sys2Proof.Config

theorem pidBad_of_gt {pid16 : BitVec 16} (h : 0x1FFF < pid16.toNat) : pidBad pid16 = true := by
  rw [← Bool.not_eq_false, pidBad_iff]
  omega

/-! ### The routing-table commands -/

section Tables

variable {pid16 : BitVec 16} {s : State}

theorem exec_registerHandler (hpid : pid16.toNat ≤ 0x1FFF) (hfatal : s.fatal = false) (h16 : BitVec 16) :
    exec (.registerHandler pid16 h16) s =
      .next ((s.setSlot pid16.toNat { hvalid := true, hid := identifier s.params h16 }).raise .ok) := by
  simp [exec, execRegisterHandler, (pidBad_iff pid16).2 hpid, hfatal]

theorem exec_unregisterHandler (hpid : pid16.toNat ≤ 0x1FFF) (hfatal : s.fatal = false) :
    exec (.unregisterHandler pid16) s =
      .next ((s.setSlot pid16.toNat { s.slot pid16.toNat with hvalid := false }).raise .ok) := by
  simp [exec, execUnregisterHandler, (pidBad_iff pid16).2 hpid, hfatal]

end Tables

/-- Settles O10: the slot reads as written, every other as before. -/
theorem registerHandlerFillsTheSlot : Obligations.RegisterHandlerFillsTheSlot := by
  unfold Obligations.RegisterHandlerFillsTheSlot
  intro pid16 h16 s hpid hfatal
  refine ⟨_, exec_registerHandler hpid hfatal h16, ?_⟩
  simp only [State.raise_slot, State.setSlot_slot, ↓reduceIte, true_and]
  exact ⟨identifier_of_fits, identifier_lt .., fun q hq => if_neg hq, rfl⟩

/-- Settles O11: the slot reads as written, every other as before. -/
theorem unregisterHandlerEmptiesTheSlot : Obligations.UnregisterHandlerEmptiesTheSlot := by
  unfold Obligations.UnregisterHandlerEmptiesTheSlot
  intro pid16 s hpid hfatal
  refine ⟨_, exec_unregisterHandler hpid hfatal, ?_⟩
  simp only [State.raise_slot, State.setSlot_slot, ↓reduceIte, true_and]
  exact ⟨fun q hq => if_neg hq, rfl⟩

/-- Settles O12: the two cases of the length check. -/
theorem addObserverAppendsOrIsFull : Obligations.AddObserverAppendsOrIsFull := by
  unfold Obligations.AddObserverAppendsOrIsFull
  intro o16 s hfatal
  refine ⟨fun hroom => ⟨_, identifier_of_fits, identifier_lt s.params o16, ?_⟩, fun hfull => ?_⟩
  · simp only [exec, execAddObserver, hfatal, hroom, Bool.false_eq_true, ↓reduceIte]
    rfl
  · simp only [exec, execAddObserver, hfatal, hfull, Bool.false_eq_true, ↓reduceIte]
    rfl

/-- Settles O13: in each of these commands the check of the PID operand comes first. -/
theorem pidOutOfRangeIsBadOperand : Obligations.PidOutOfRangeIsBadOperand := by
  unfold Obligations.PidOutOfRangeIsBadOperand
  intro pid16 h16 sel8 sec rest head s hpid
  have checked (t : State) : Host.Outcome.next (if pidBad pid16 then s.raise .badOperand else t) =
      (.next (s.raise .badOperand) : Host.Outcome State Fault Refusal) := congrArg _ (if_pos (pidBad_of_gt hpid))
  simp only [List.forall_mem_cons]
  exact ⟨checked _, checked _, checked _, checked _, checked _, checked _, checked _, checked _, checked _, checked _,
    checked _, checked _, checked _, checked _, checked _, nofun⟩

/-! ### The host commands -/

theorem statusRead_bytes (st : BitVec 8) :
    beBytes 8 (statusRead st).toNat = [0, 0, 0, 0, 0, 0, 0, st &&& 0x07] := by
  revert st
  decide

theorem State.csr_of_two_lt (s : State) {n8 : Byte} (h : 2 < n8.toNat) : s.csr n8 = none := by
  unfold State.csr
  split
  case h_4 => rfl
  all_goals omega

/-- Settles O14: the three registers by number, and none above. -/
theorem readCsrAnswersTheRegister : Obligations.ReadCsrAnswersTheRegister := by
  unfold Obligations.ReadCsrAnswersTheRegister
  intro s
  refine ⟨rfl, rfl, ?_, fun n8 hn => ?_⟩
  · calc exec (.readCsr 0x02) s
        = .next (s.respond .ok (beBytes 8 (statusRead s.status).toNat)) := rfl
      _ = _ := by rw [statusRead_bytes]; rfl
  · calc exec (.readCsr n8) s
        = .next (readAnswer s (s.csr n8)) := rfl
      _ = _ := by rw [State.csr_of_two_lt s hn]; rfl

/-- Settles O16: the registers are written from the reset state. -/
theorem resetRestoresEveryRegister : Obligations.ResetRestoresEveryRegister := by
  unfold Obligations.ResetRestoresEveryRegister
  exact fun s => rfl

theorem readAnswer_responds (s : State) (v : Option Nat) : ∃ r, readAnswer s v = { s with rsp := s.rsp ++ [r] } := by
  obtain ⟨_, _, h⟩ | ⟨_, h⟩ := readAnswer_cases s v <;> exact ⟨_, h⟩

theorem parseAnswer_responds (s : State) (pid16 : BitVec 16) (r : Except Status Header) :
    ∃ q, parseAnswer s pid16 r = { s with rsp := s.rsp ++ [q] } := by
  obtain ⟨_, h⟩ | ⟨_, _, _, h⟩ | ⟨_, _, _, h⟩ := parseAnswer_cases s pid16 r <;> exact ⟨_, h⟩

theorem getAnswer_responds (s : State) (pid16 : BitVec 16) (sec : List Byte) (field : Header → Option (BitVec 16)) :
    ∃ q, getAnswer s pid16 sec field = { s with rsp := s.rsp ++ [q] } := by
  obtain ⟨_, h⟩ | ⟨_, _, _, h⟩ | ⟨_, _, _, _, h⟩ | ⟨_, _, _, _, _, h⟩ := getAnswer_cases s pid16 sec field <;>
    exact ⟨_, h⟩

/-- Settles O57: whatever these commands answer, they only answer. -/
theorem readsHaveNoSideEffect : Obligations.ReadsHaveNoSideEffect := by
  unfold Obligations.ReadsHaveNoSideEffect
  intro n8 sel8 pid16 sec s
  have responds {t : State} (h : ∃ r, t = { s with rsp := s.rsp ++ [r] }) :
      ∃ r, (.next t : Host.Outcome State Fault Refusal) = .next { s with rsp := s.rsp ++ [r] } := by
    obtain ⟨r, rfl⟩ := h
    exact ⟨r, rfl⟩
  have hacc : ∃ r, (if pidBad pid16 then s.raise .badOperand else readAnswer s ((s.accum pid16.toNat).counter sel8)) =
      { s with rsp := s.rsp ++ [r] } := by
    split
    · exact ⟨_, rfl⟩
    · exact readAnswer_responds ..
  have hget (field : Header → Option (BitVec 16)) := responds (getAnswer_responds s pid16 sec field)
  simp only [List.forall_mem_cons]
  exact ⟨responds (readAnswer_responds s _), responds hacc, responds (parseAnswer_responds s pid16 _), hget _, hget _,
    hget _, hget _, hget _, hget _, hget _, hget _, hget _, nofun⟩

/-! ### The fatal state -/

/-- Settles O38: ACCEPT of any form looks at FATAL before the framer's result, the table commands after their PID. -/
theorem fatalStateRefusesTheFourCommands : Obligations.FatalStateRefusesTheFourCommands := by
  unfold Obligations.FatalStateRefusesTheFourCommands
  intro p low7 rest h body pid16 h16 o16 s hfatal hpid
  have refused (t : State) : Host.Outcome.next (if s.fatal then s.raise .fatal else t) =
      (.next (s.raise .fatal) : Host.Outcome State Fault Refusal) := congrArg _ (if_pos hfatal)
  have inRange (t : State) : Host.Outcome.next
      (if pidBad pid16 then s.raise .badOperand else if s.fatal then s.raise .fatal else t) =
      (.next (s.raise .fatal) : Host.Outcome State Fault Refusal) := by
    rw [(pidBad_iff pid16).2 hpid]
    exact refused t
  simp only [List.forall_mem_cons]
  exact ⟨refused _, refused _, refused _, refused _, refused _, refused _, refused _, inRange _, inRange _, refused _,
    nofun⟩

end Sys2Proof.Machine
end

section
/-!
PROOFS. 43_section_header.md R160 to R179: what SECHDR_PARSE and SECHDR_GET answer of a header that is all there, as the
bytes of the section.
-/

namespace Sys2Proof.Machine

open Sys2Proof.Config

/-! ### Fields as bytes -/

/-- R93: a byte as two. -/
theorem word16_setWidth_byte (b : Byte) : word16 (b.setWidth 16) = [0, b] := by
  revert b
  decide

/-- R162: `section_length` as two bytes. -/
theorem word16_sectionLength (s1 s2 : Byte) : word16 ((sectionLengthOf s1 s2).setWidth 16) = [s1 &&& 0x0F, s2] := by
  have hlow : (sectionLengthOf s1 s2).setWidth 16 = (s1 &&& 0x0F) ++ s2 := by
    apply BitVec.eq_of_toNat_eq
    rw [BitVec.toNat_setWidth, sectionLengthOf, toNat_append_byte, toNat_append_byte]
    have hnibble : (s1.extractLsb' 0 4).toNat = (s1 &&& 0x0F).toNat := by revert s1; decide
    have := s2.isLt
    have := (s1.extractLsb' 0 4).isLt
    omega
  rw [hlow]
  exact word16_be16 ..

theorem word16_version (s5 : Byte) : word16 ((versionOf s5).setWidth 16) =
    ([0, (s5 >>> 1) &&& 0x1F] : List Byte) := by
  revert s5
  decide

theorem word16_currentNext (s5 : Byte) : word16 ((currentNextOf s5).setWidth 16) = [0, s5 &&& 1] := by
  revert s5
  decide

theorem byteOf_byte (b : Byte) : byteOf b = [b] := by rw [byteOf, BitVec.setWidth_eq]

theorem byteOf_version (s5 : Byte) : byteOf (versionOf s5) = [(s5 >>> 1) &&& 0x1F] := by
  revert s5
  decide

theorem byteOf_currentNext (s5 : Byte) : byteOf (currentNextOf s5) = [s5 &&& 1] := by
  revert s5
  decide

/-! ### The header -/

theorem hdr_of_short {s1 : Byte} (hssi : ssiOf s1 = false) (s0 s2 : Byte) (rest : List Byte) :
    hdr (s0 :: s1 :: s2 :: rest) = .ok (shortHeader s0 (sectionLengthOf s1 s2)) := by
  rw [hdr, hssi]
  rfl

theorem parseAnswer_of_ok {pid16 : BitVec 16} (hpid : pid16.toNat ≤ 0x1FFF) (s : State) (h : Header) :
    parseAnswer s pid16 (.ok h) = s.respond .ok (h.pack pid16) := by
  simp only [parseAnswer, (pidBad_iff pid16).2 hpid, Bool.false_eq_true, ↓reduceIte]

theorem getAnswer_of_some {pid16 : BitVec 16} {sec : List Byte} {h : Header} {field : Header → Option (BitVec 16)}
    {v : BitVec 16} (hpid : pid16.toNat ≤ 0x1FFF) (hhdr : hdr sec = .ok h) (hfield : field h = some v) (s : State) :
    getAnswer s pid16 sec field = s.respond .ok (word16 v) := by
  simp only [getAnswer, (pidBad_iff pid16).2 hpid, Bool.false_eq_true, ↓reduceIte, hhdr, hfield]

theorem getAnswer_of_none {pid16 : BitVec 16} {sec : List Byte} {h : Header} {field : Header → Option (BitVec 16)}
    (hpid : pid16.toNat ≤ 0x1FFF) (hhdr : hdr sec = .ok h) (hfield : field h = none) (s : State) :
    getAnswer s pid16 sec field = s.raise .invalidState := by
  simp only [getAnswer, (pidBad_iff pid16).2 hpid, Bool.false_eq_true, ↓reduceIte, hhdr, hfield]

/-! ### SECHDR_PARSE -/

/-- R93: the data bytes of a long-form header. -/
theorem longHeader_pack (pid16 : BitVec 16) (tid : Byte) (len : BitVec 12) (s3 s4 s5 s6 s7 : Byte) :
    Header.pack pid16 (.long tid len (be16 s3 s4) (versionOf s5) (currentNextOf s5) s6 s7 LONG_BODY_OFF) =
      word16 pid16 ++ ([tid, 1] ++ word16 (len.setWidth 16) ++
        [s3, s4, (s5 >>> 1) &&& 0x1F, s5 &&& 1, s6, s7, 8]) := by
  simp only [Header.pack, word16_be16, byteOf_byte, byteOf_version, byteOf_currentNext]
  rfl

/-- R93, R165: the data bytes of a short-form header. -/
theorem shortHeader_pack (pid16 : BitVec 16) (tid : Byte) (len : BitVec 12) :
    (shortHeader tid len).pack pid16 =
      word16 pid16 ++ ([tid, 0] ++ word16 (len.setWidth 16) ++ [0, 0, 0, 0, 0, 0, 1]) := by
  simp only [shortHeader, Header.pack, byteOf_byte]
  rfl

/-- Settles O18: command and form pack the same header; the command's length field is bytes 1 and 2. -/
theorem parseAnswersALongHeader : Obligations.ParseAnswersALongHeader := by
  unfold Obligations.ParseAnswersALongHeader
  intro pid16 s0 s1 s2 s3 s4 s5 s6 s7 rest s hpid hssi
  have hform (tid : Byte) (len : BitVec 12) :
      parseAnswer s pid16 (longHeader tid len (s3 :: s4 :: s5 :: s6 :: s7 :: rest)) = s.respond .ok
        (word16 pid16 ++ ([tid, 1] ++ word16 (len.setWidth 16) ++
          [s3, s4, (s5 >>> 1) &&& 0x1F, s5 &&& 1, s6, s7, 8])) := by
    rw [longHeader, parseAnswer_of_ok hpid, longHeader_pack]
  refine ⟨?_, fun head => congrArg _ (hform head.tableId head.sectionLength)⟩
  calc exec (.sechdrParse pid16 (s0 :: s1 :: s2 :: s3 :: s4 :: s5 :: s6 :: s7 :: rest)) s
      = .next (parseAnswer s pid16 (hdr (s0 :: s1 :: s2 :: s3 :: s4 :: s5 :: s6 :: s7 :: rest))) := rfl
    _ = _ := by rw [hdr_of_syntaxIndicator hssi, hform, word16_sectionLength]; rfl

/-- Settles O19: command and form pack the same header; the command's length field is bytes 1 and 2. -/
theorem parseAnswersAShortHeader : Obligations.ParseAnswersAShortHeader := by
  unfold Obligations.ParseAnswersAShortHeader
  intro pid16 s0 s1 s2 rest s hpid hssi
  have hform (tid : Byte) (len : BitVec 12) :
      parseAnswer s pid16 (.ok (shortHeader tid len)) = s.respond .ok
        (word16 pid16 ++ ([tid, 0] ++ word16 (len.setWidth 16) ++ [0, 0, 0, 0, 0, 0, 1])) := by
    rw [parseAnswer_of_ok hpid, shortHeader_pack]
  refine ⟨?_, fun head => congrArg _ (hform head.tableId head.sectionLength)⟩
  calc exec (.sechdrParse pid16 (s0 :: s1 :: s2 :: rest)) s
      = .next (parseAnswer s pid16 (hdr (s0 :: s1 :: s2 :: rest))) := rfl
    _ = _ := by rw [hdr_of_short hssi, hform, word16_sectionLength]; rfl

/-! ### SECHDR_GET -/

/-- R170: a selector whose field exists answers it as two bytes. -/
theorem get_answers {pid16 : BitVec 16} {sec : List Byte} {h : Header} (hpid : pid16.toNat ≤ 0x1FFF)
    (hhdr : hdr sec = .ok h) (s : State) {field : Header → Option (BitVec 16)} {v : BitVec 16} {data : List Byte}
    (hfield : field h = some v) (hdata : word16 v = data) :
    (.next (getAnswer s pid16 sec field) : Host.Outcome State Fault Refusal) =
      .next { s with rsp := s.rsp ++ [⟨.ok, data⟩] } := by
  rw [getAnswer_of_some hpid hhdr hfield, hdata]
  rfl

/-- Settles O21: the four fields of either form. -/
theorem gettersOfBothForms : Obligations.GettersOfBothForms := by
  unfold Obligations.GettersOfBothForms
  intro pid16 s0 s1 s2 rest s hpid hlong
  cases hssi : s1.getLsbD 7 with
  | true =>
    have hlen := hlong hssi
    match rest with
    | [] | [_] | [_, _] | [_, _, _] | [_, _, _, _] => simp at hlen
    | s3 :: s4 :: s5 :: s6 :: s7 :: more =>
      have hhdr := hdr_of_syntaxIndicator hssi s0 s2 (s3 :: s4 :: s5 :: s6 :: s7 :: more)
      exact ⟨get_answers hpid hhdr s rfl (word16_setWidth_byte s0), get_answers hpid hhdr s rfl rfl,
        get_answers hpid hhdr s rfl (word16_sectionLength s1 s2), get_answers hpid hhdr s rfl rfl⟩
  | false =>
    have hhdr := hdr_of_short hssi s0 s2 rest
    exact ⟨get_answers hpid hhdr s rfl (word16_setWidth_byte s0), get_answers hpid hhdr s rfl rfl,
      get_answers hpid hhdr s rfl (word16_sectionLength s1 s2), get_answers hpid hhdr s rfl rfl⟩

/-- Settles O22: the five fields exist in a long-form header and in no short-form one. -/
theorem gettersOfTheLongFormOnly : Obligations.GettersOfTheLongFormOnly := by
  unfold Obligations.GettersOfTheLongFormOnly
  intro pid16 s0 s1 s2 more s hpid
  refine ⟨?_, fun hssi => ?_⟩
  · rintro hssi s3 s4 s5 s6 s7 rest rfl
    have hhdr := hdr_of_syntaxIndicator hssi s0 s2 (s3 :: s4 :: s5 :: s6 :: s7 :: rest)
    exact ⟨get_answers hpid hhdr s rfl (word16_be16 s3 s4), get_answers hpid hhdr s rfl (word16_version s5),
      get_answers hpid hhdr s rfl (word16_currentNext s5), get_answers hpid hhdr s rfl (word16_setWidth_byte s6),
      get_answers hpid hhdr s rfl (word16_setWidth_byte s7)⟩
  · have hhdr := hdr_of_short hssi s0 s2 more
    have absent {field : Header → Option (BitVec 16)} (hfield : field (shortHeader s0 (sectionLengthOf s1 s2)) = none) :
        (.next (getAnswer s pid16 (s0 :: s1 :: s2 :: more) field) : Host.Outcome State Fault Refusal) =
          .next { s with rsp := s.rsp ++ [⟨.invalidState, []⟩] } := congrArg _ (getAnswer_of_none hpid hhdr hfield s)
    simp only [List.forall_mem_cons]
    exact ⟨absent (field := Header.tableIdExtension?) rfl, absent (field := Header.versionNumber?) rfl,
      absent (field := Header.currentNext?) rfl, absent (field := Header.sectionNumber?) rfl,
      absent (field := Header.lastSectionNumber?) rfl, nofun⟩

end Sys2Proof.Machine
end
